-- ==== Sys2Proof/Word.lean ====
section
/-! DEFINITION. The words of the block: 64-bit registers (10_state.md R21), 8-bit bytes, 34-bit host
offsets (20_memory.md R60) and finite bit sequences (00_scope.md R12). -/

namespace Sys2Proof

/-- A named register, or the data of one host transaction (R21, R60). -/
abbrev Word := BitVec 64

/-- One byte of BUF (R39). -/
abbrev Byte := BitVec 8

/-- A host byte offset (R60). -/
abbrev Offset := BitVec 34

/-- A bit sequence, index 0 first; `true` is 1 (R12). -/
abbrev BitSeq := List Bool

end Sys2Proof
end

