-- ==== Sys2Proof/Config.lean ====
section
/-! DEFINITION. What an implementation of the block fixes: NMAX alone (00_scope.md R8, R9;
93_implementation_defined.md section 1). -/

namespace Sys2Proof

/-- The one implementation parameter. It is carried by every state (so a statement about every state is a
statement about every NMAX) and no step changes it (10_state.md R38). -/
structure Config where
  /-- Capacity of CAND in bits, and eight times the capacity of BUF in bytes (R8). -/
  nmax : Nat
  deriving DecidableEq, Repr

/-- The value `State.reset` runs with, the least legal one. DESIGN CHOICE, log 1, unsafe: the spec leaves NMAX
open, so no statement may rest on it. -/
def Config.smallest : Config := ⟨64⟩

end Sys2Proof
end

