-- ==== Sys2Proof/Syntax.lean ====
section
/-! DEFINITION. The ten commands (30_encoding.md R92). No command has an operand field (R94). -/

namespace Sys2Proof

/-- The commands of the block, one constructor per row of spec/opcode_table.json, in its order. -/
inductive Instr where
  /-- PACK, R114 -/
  | pack
  /-- UNPACK, R115 -/
  | unpack
  /-- HASH, R123 -/
  | hash
  /-- POPCNT, R131 -/
  | popcnt
  /-- FIRST, R147 -/
  | first
  /-- NEXT, R149 -/
  | next
  /-- LDDESC, R161 -/
  | lddesc
  /-- STDESC, R133 -/
  | stdesc
  /-- ENCODE, R136 -/
  | encode
  /-- DECODE, R163 -/
  | decode
  deriving DecidableEq, Repr

end Sys2Proof
end

