-- ==== Sys2Proof/WellFormed.lean ====
section
/-! DEFINITION. Which terms are well formed: a legal NMAX (00_scope.md R8) and a legal command word
(30_encoding.md R90, R95). A command has no field, so every term of `Instr` is well formed. -/

namespace Sys2Proof

/-- `64 <= NMAX <= 2^35` and `NMAX mod 64 = 0` (R8). -/
def Config.wf (c : Config) : Bool :=
  decide (64 ≤ c.nmax) && decide (c.nmax ≤ 2 ^ 35) && decide (c.nmax % 64 = 0)

/-- Field ZERO (bits 63:8) is 0 and the opcode (bits 7:0) is one of 1 to 10 (R90, R95). -/
def commandWordWf (w : Word) : Bool :=
  (w.extractLsb 63 8 == 0) && decide (1 ≤ (w.extractLsb 7 0).toNat) && decide ((w.extractLsb 7 0).toNat ≤ 10)

/-- No command has an operand field, so there is nothing to check (R94). -/
def Instr.wf : Instr → Bool
  | .pack => true
  | .unpack => true
  | .hash => true
  | .popcnt => true
  | .first => true
  | .next => true
  | .lddesc => true
  | .stdesc => true
  | .encode => true
  | .decode => true

end Sys2Proof
end

