-- ==== Sys2Proof/Decode.lean ====
section
/-! DEFINITION. Decoding of the word written to CMD (30_encoding.md R90, R92, R95), total on all `2^64` words, and
the encoder. -/

namespace Sys2Proof

/-- Why a word is no command. All three are the one error ILLEGAL to the host (R95). -/
inductive DecodeError where
  /-- Some bit of field ZERO (63:8) is 1. -/
  | zeroFieldSet
  /-- The opcode is 0, "illegal on purpose" (R95). -/
  | opcodeZero
  /-- The opcode is 11 to 255. -/
  | opcodeAboveTen
  deriving DecidableEq, Repr

/-- The opcode map (R92). -/
def decodeOpcode (opc : BitVec 8) : Except DecodeError Instr :=
  match opc.toNat with
  | 0 => .error .opcodeZero
  | 1 => .ok .pack
  | 2 => .ok .unpack
  | 3 => .ok .hash
  | 4 => .ok .popcnt
  | 5 => .ok .first
  | 6 => .ok .next
  | 7 => .ok .lddesc
  | 8 => .ok .stdesc
  | 9 => .ok .encode
  | 10 => .ok .decode
  | _ => .error .opcodeAboveTen

/-- Decode a command word: field ZERO must be 0, then the opcode selects the command (R90). -/
def decode (w : Word) : Except DecodeError Instr :=
  if w.extractLsb 63 8 = 0 then decodeOpcode (w.extractLsb 7 0) else .error .zeroFieldSet

/-- The opcode of a command (R92, column OPC). -/
def opcode : Instr → Nat
  | .pack => 1
  | .unpack => 2
  | .hash => 3
  | .popcnt => 4
  | .first => 5
  | .next => 6
  | .lddesc => 7
  | .stdesc => 8
  | .encode => 9
  | .decode => 10

/-- The word of a command: its opcode in bits 7:0 and zeros above (R90). -/
def encode (i : Instr) : Word := BitVec.ofNat 64 (opcode i)

/-- The command an instruction of the opcode table's numbering stands for. A command is one 64-bit data word of a
host write, never stored in a byte memory, so the word is given to `decode` as it is; a number of more than 64 bits
is no command word (log 14). -/
def decodeTableWord (nbits w : Nat) : Option Instr :=
  let v := w % 2 ^ nbits
  if v < 2 ^ 64 then
    match decode (BitVec.ofNat 64 v) with
    | .ok i => some i
    | .error _ => none
  else none

end Sys2Proof
end

