-- ==== Sys2Proof/Machine/State.lean ====
section
/-! DEFINITION. The state of the machine: the tuple of 10_state.md R45 and the model's own fields for the host agent,
and its value after reset (R46). -/

namespace Sys2Proof.Machine

/-- ST, the sequencer state: the twenty names of R40. -/
inductive Sequencer where
  | idle
  | xPack | xUnpack | xHash | xPopcnt | xFirst | xNext | xLddesc | xStdesc
  | ePack | eCount | eHash | eStore
  | dLoad | dCheck | dSeed | dHash | dCmp | dAdv | dEmit
  deriving DecidableEq, Repr

/-- The codes of STATUS.ERR that exist (60_exceptions.md R185); 8 to 15 are never produced. -/
inductive ErrCode where
  | none | format | length | notFound | cancelled | param | capacity | illegal
  deriving DecidableEq, Repr

/-- The response of a host transaction (20_memory.md R60). -/
inductive Resp where
  | okay | error
  deriving DecidableEq, Repr

/-- What the port answers to one transaction; `data` is 0 for a write and for an ERROR (R60, R62). -/
structure Reply where
  resp : Resp
  data : Word
  deriving DecidableEq, Repr

/-- One atomic move of R72, as the host's side schedules it (log 3). -/
inductive Move where
  /-- `HostRead(off)` -/
  | read (off : Offset)
  /-- `HostWrite(off, v)` -/
  | write (off : Offset) (v : Word)
  /-- The engine takes one FSM step. -/
  | engine
  /-- `rst`, with the contents BUF holds afterwards (R215, R218; log 8). -/
  | reset (contents : List Host.Cell)
  /-- The word is written to CMD and the command run to its end, with the cancel parameter `q` of R170
  (R93, R163; log 4). -/
  | command (w : Word) (q : Option Nat)
  deriving DecidableEq, Repr

/-- The architectural state (R45), then the model's own fields. -/
structure State where
  /-- The constant CAP reports (R38); no step writes it. -/
  cfg : Config
  /-- CMD, R22 -/
  cmd : Word
  /-- STATUS.BUSY, R36 -/
  busy : Bool
  /-- STATUS.DONE, R36 -/
  done : Bool
  /-- STATUS.EXH, R36 -/
  exh : Bool
  /-- STATUS.MATCH, R36 -/
  matched : Bool
  /-- STATUS.ERR, R36, R185 -/
  err : ErrCode
  /-- CTRL.IE, R37 -/
  ie : Bool
  /-- CANCEL_REQ, R37 -/
  cancelReq : Bool
  /-- TOTAL_BITS, R24 -/
  totalBits : Word
  /-- SET_BITS, R25 -/
  setBits : Word
  /-- FINGERPRINT, R26 -/
  fingerprint : Word
  /-- ACC, R28 -/
  acc : Word
  /-- COUNT, R30 -/
  count : Word
  /-- BYTE_COUNT, R23 -/
  byteCount : Word
  /-- DREC_LEN, R31 -/
  drecLen : Word
  /-- DREC0, R33 -/
  drec0 : Word
  /-- DREC1, R33 -/
  drec1 : Word
  /-- DREC2, R33 -/
  drec2 : Word
  /-- CAND, the sequence c; LEN is its length (R29, R34). -/
  cand : BitSeq
  /-- BUF as address and byte, in the canonical form of `bufWf` (R39; log 2). -/
  buf : List Host.Cell
  /-- ST, R40 -/
  st : Sequencer
  /-- The model's own: what the port answered last; `none` before any transaction (log 7). -/
  reply : Option Reply
  /-- The model's own: the host's moves still to come (log 3). -/
  host : List Move
  /-- The model's own: the cancel parameter q of R170, `none` for never (log 5). -/
  cancelAt : Option Nat
  deriving DecidableEq, Repr

/-- Why the machine could stop: no reason exists, since every command word and every transaction has a defined effect
(93_implementation_defined.md section 3; 60_exceptions.md R197, R200; log 9). -/
inductive Fault where
  deriving DecidableEq, Repr

/-- Why a step could have no meaning. -/
inductive Refusal where
  /-- Raised by an arm of `exec` that has no meaning yet; no arm is such a one. Safe: the machine stops. -/
  | notModelled (mnemonic : String)
  deriving DecidableEq, Repr

/-- The state after `rst` (R46, R215), for a given NMAX and given contents of BUF, which reset leaves unspecified
(R218). -/
def State.resetWith (cfg : Config) (buf : List Host.Cell) : State where
  cfg := cfg
  cmd := 0
  busy := false
  done := false
  exh := false
  matched := false
  err := .none
  ie := false
  cancelReq := false
  totalBits := 0
  setBits := 0
  fingerprint := 0
  acc := 0
  count := 0
  byteCount := 0
  drecLen := 0
  drec0 := 0
  drec1 := 0
  drec2 := 0
  cand := []
  buf := buf
  st := .idle
  reply := none
  host := []
  cancelAt := none

/-- One machine right after reset: NMAX = 64 (DESIGN CHOICE, log 1) and BUF with nothing listed
(DESIGN CHOICE, log 2). -/
def State.reset : State := State.resetWith Config.smallest []

end Sys2Proof.Machine
end

