-- ==== Sys2Proof/Machine/Flags.lean ====
section
/-! DEFINITION. The flags: STATUS and CTRL as words, what clears them, the interrupt line (10_state.md R35 to R37;
60_exceptions.md R185, R195). The block has no arithmetic flag (R36). -/

namespace Sys2Proof.Machine

/-- The number of an error code (R185). -/
def errCode : ErrCode → BitVec 4
  | .none => 0
  | .format => 1
  | .length => 2
  | .notFound => 3
  | .cancelled => 4
  | .param => 5
  | .capacity => 6
  | .illegal => 7

/-- A flag as a bit of a word. -/
def flagBit (b : Bool) : BitVec 1 := BitVec.ofBool b

/-- STATUS as the host reads it: BUSY 0, DONE 1, EXH 2, MATCH 3, ERR 7:4, zeros above (R35). -/
def statusWord (s : State) : Word :=
  (errCode s.err ++ flagBit s.matched ++ flagBit s.exh ++ flagBit s.done ++ flagBit s.busy).setWidth 64

/-- CTRL as the host reads it: IE in bit 0, CANCEL_REQ in bit 1, 0 elsewhere (R37). -/
def ctrlWord (s : State) : Word :=
  (flagBit s.cancelReq ++ flagBit s.ie).setWidth 64

/-- A host write to CTRL: bit 0 replaces IE, bit 1 sets CANCEL_REQ, bit 2 clears DONE, the rest is ignored (R37). -/
def writeCtrl (v : Word) (s : State) : State :=
  { s with
    ie := v.getLsbD 0
    cancelReq := s.cancelReq || v.getLsbD 1
    done := s.done && !v.getLsbD 2 }

/-- What every issue clears before anything else (R91): DONE, EXH, MATCH, ERR and CANCEL_REQ. -/
def clearOutcome (s : State) : State :=
  { s with done := false, exh := false, matched := false, err := .none, cancelReq := false }

/-- The interrupt output, a level: IE and DONE (R195). -/
def irq (s : State) : Bool := s.ie && s.done

end Sys2Proof.Machine
end

