-- ==== Sys2Proof/Machine/Ops.lean ====
section
/-! DEFINITION. The named operations over BUF, byte order, the end of a command, issue, and the arrival of a cancel
request, which every command is written with. -/

namespace Sys2Proof.Machine

/-! ### BUF, bytes by address (R39, R13) -/

/-- What an address of BUF that is not listed reads as. DESIGN CHOICE, log 2: reset leaves BUF unspecified (R218). -/
def unlistedByte : Byte := 0

/-- The number of bytes of BUF (R39). -/
def bufBytes (cfg : Config) : Nat := cfg.nmax / 8

/-- `MemRead(BUF, a, 1)` (R13). -/
def bufRead : List Host.Cell → Nat → Byte
  | [], _ => unlistedByte
  | (b, v) :: rest, a => if b = a then v else bufRead rest a

/-- `MemWrite(BUF, a, 1, v)` (R13), keeping the canonical form. -/
def bufWrite : List Host.Cell → Nat → Byte → List Host.Cell
  | [], a, v => if v = unlistedByte then [] else [(a, v)]
  | (b, w) :: rest, a, v =>
    if a < b then (if v = unlistedByte then (b, w) :: rest else (a, v) :: (b, w) :: rest)
    else if a = b then (if v = unlistedByte then rest else (a, v) :: rest)
    else (b, w) :: bufWrite rest a v

/-- The bytes `BUF[a], BUF[a+1], ...`, `n` of them. -/
def bufReadBytes (m : List Host.Cell) (a n : Nat) : List Byte :=
  (List.range n).map fun j => bufRead m (a + j)

/-- Write a list of bytes at `a`, `a+1`, ... -/
def bufWriteBytes (m : List Host.Cell) (a : Nat) : List Byte → List Host.Cell
  | [] => m
  | v :: rest => bufWriteBytes (bufWrite m a v) (a + 1) rest

/-- The cells from address `n` on are strictly rising and none holds what an unlisted address reads as. -/
def cellsFrom : Nat → List Host.Cell → Bool
  | _, [] => true
  | n, (a, v) :: rest => decide (n ≤ a) && decide (v ≠ unlistedByte) && cellsFrom (a + 1) rest

/-- The canonical form of BUF's cells. -/
def bufWf (m : List Host.Cell) : Bool := cellsFrom 0 m

/-- Every listed cell lies in the `NMAX/8` bytes BUF has (R39). -/
def bufWithin (cfg : Config) (m : List Host.Cell) : Bool :=
  m.all fun c => decide (c.1 < bufBytes cfg)

/-- The cells of a list that lie in BUF, written one by one: the canonical form of any contents (log 8). -/
def bufOfCells (cfg : Config) (cells : List Host.Cell) : List Host.Cell :=
  (cells.filter fun c => decide (c.1 < bufBytes cfg)).foldl (fun m c => bufWrite m c.1 c.2) []

/-! ### Byte order and bits of a number (R63, R64, R65) -/

/-- `le64(v)`: the eight bytes of a word, least significant first (R64). -/
def le64 (v : Word) : List Byte := (List.range 8).map fun j => (v >>> (8 * j)).setWidth 8

/-- The number whose base-256 digits, least significant first, are the bytes. -/
def bytesValue : List Byte → Nat
  | [] => 0
  | b :: rest => b.toNat + 2 ^ 8 * bytesValue rest

/-- `from_le64(b)` (R64). -/
def fromLe64 (bytes : List Byte) : Word := BitVec.ofNat 64 (bytesValue bytes)

/-- The number whose bit `i` is `c[i]`: the sum of `c[i] << i` (R67, R111). -/
def bitsValue : BitSeq → Nat
  | [] => 0
  | b :: rest => b.toNat + 2 * bitsValue rest

/-! ### The end of a command (60_exceptions.md R197, R198) -/

/-- `finish` (R198). -/
def State.finish (s : State) : State := { s with done := true, busy := false, st := .idle }

/-- `fail(code)`, the whole of "trap entry" (R197): nothing is saved and control goes nowhere. -/
def State.fail (e : ErrCode) (s : State) : State :=
  { s with err := e, done := true, busy := false, st := .idle }

/-- End a command whose one datapath operation either raised an error before any write or gave a new state. -/
def State.conclude (s : State) : Except ErrCode State → State
  | .ok t => t.finish
  | .error e => s.fail e

/-! ### The port's answer (20_memory.md R60, R62) -/

def Reply.okayWrite : Reply := ⟨.okay, 0⟩

def Reply.okayRead (data : Word) : Reply := ⟨.okay, data⟩

def Reply.refused : Reply := ⟨.error, 0⟩

/-- The port presents its answer to the transaction just done. -/
def State.answer (r : Reply) (s : State) : State := { s with reply := some r }

/-! ### Issue (30_encoding.md R91, R92) -/

/-- The entry state of a command (R92). -/
def entry : Instr → Sequencer
  | .pack => .xPack
  | .unpack => .xUnpack
  | .hash => .xHash
  | .popcnt => .xPopcnt
  | .first => .xFirst
  | .next => .xNext
  | .lddesc => .xLddesc
  | .stdesc => .xStdesc
  | .encode => .ePack
  | .decode => .dLoad

/-- Start a defined command on a state whose outcome is cleared (R91, else branch). -/
def beginCommand (i : Instr) (s : State) : State :=
  { s with
    count := if i = .decode then 0 else s.count
    busy := true
    st := entry i }

/-- Issue: what a host write of `w` to CMD does while the block is not busy (R91). -/
def issue (w : Word) (s : State) : State :=
  let t := { clearOutcome s with cmd := w }
  match decode w with
  | .ok i => beginCommand i t
  | .error _ => { t with err := .illegal, done := true }

/-! ### The cancel write of a command run to its end (44_decoder.md R170; log 5) -/

/-- The word of the pseudo-operation CANCEL: bit 1 set, IE kept (R98, R228). -/
def cancelWord (s : State) : Word := if s.ie then 3 else 2

/-- The host's cancel write: a write to CTRL, accepted at any time (R37, R225). -/
def cancelWrite (s : State) : State := (writeCtrl (cancelWord s) s).answer .okayWrite

/-- Before the D_ADV step that follows a comparison: the cancel write lands if its time `q` has come, else one
comparison fewer is left (R170). A `q` of 0 counts as 1. -/
def cancelArrives (s : State) : State :=
  match s.cancelAt with
  | none => s
  | some q => if q ≤ 1 then cancelWrite { s with cancelAt := none } else { s with cancelAt := some (q - 1) }

/-- After the command has ended: a cancel write that has not landed yet lands now; it sets CANCEL_REQ and has no other
effect (R170, R228). -/
def cancelLands (s : State) : State :=
  match s.cancelAt with
  | none => s
  | some _ => cancelWrite { s with cancelAt := none }

/-! ### A command from issue to completion (R93, R137, R163; log 4) -/

/-- A host write of the command's word, and, if the block took it, the whole command: `body` is its effect from the
state issue leaves to its end. A busy block refuses the write and changes nothing (R62, R225; log 16). -/
def runCommand (i : Instr) (body : State → State) (s : State) : Host.Outcome State Fault Refusal :=
  if s.busy then .next (s.answer .refused)
  else .next (cancelLands (body ((issue (encode i) s).answer .okayWrite)))

end Sys2Proof.Machine
end

