-- ==== Sys2Proof/Machine/Operands.lean ====
section
/-! DEFINITION. The operands. No command names one (30_encoding.md R94): each is a register or a fixed part of a store
(10_state.md R44; 45_common_laws.md R243), read by the views below. -/

namespace Sys2Proof.Machine

/-- LEN, the length of c (R29). -/
def State.len (s : State) : Nat := s.cand.length

/-- LEN as the 64-bit register the host reads (R29). -/
def lenWord (s : State) : Word := BitVec.ofNat 64 s.len

/-- CAP (R38). -/
def capWord (s : State) : Word := BitVec.ofNat 64 s.cfg.nmax

/-- The input byte stream `BUF[0 .. BYTE_COUNT-1]` (R23). -/
def inputBytes (s : State) : List Byte := bufReadBytes s.buf 0 s.byteCount.toNat

/-- Word `w` of the BUF window (20_memory.md R66). -/
def bufWindowWord (s : State) (w : Nat) : Word := fromLe64 (bufReadBytes s.buf (8 * w) 8)

/-- Word `w` of the CAND window: bit `b` is `c[64w + b]`, 0 at and above LEN (20_memory.md R67). -/
def candWindowWord (s : State) (w : Nat) : Word :=
  BitVec.ofNat 64 (bitsValue ((s.cand.drop (64 * w)).take 64))

/-- The 24 bytes of the record DREC holds (R33, R64). -/
def recordBytes (s : State) : List Byte := le64 s.drec0 ++ le64 s.drec1 ++ le64 s.drec2

end Sys2Proof.Machine
end

