-- ==== Sys2Proof/Machine/Fingerprint.lean ====
section
/-! DEFINITION. The fingerprint hash core, command HASH (41_fingerprint.md). -/

namespace Sys2Proof.Machine

/-- OFFSET (R120). -/
def fpOffset : Word := 0xCBF29CE484222325

/-- PRIME (R120). -/
def fpPrime : Word := 0x00000100000001B3

/-- One step of the recurrence, `((a ^ b) × PRIME) mod 2^64` (R120). -/
def fpStep (a : Word) (b : Bool) : Word := (a ^^^ (BitVec.ofBool b).setWidth 64) * fpPrime

/-- `fp(c)`, index 0 first (R120). -/
def fp (c : BitSeq) : Word := c.foldl fpStep fpOffset

/-- `op_hash` (R121). -/
def opHash (s : State) : State := { s with acc := fp s.cand }

/-- The single FSM step in state X_HASH (R123). -/
def hashStep (s : State) : State := (opHash s).finish

/-- HASH (R123). -/
def execHash (s : State) : Host.Outcome State Fault Refusal := runCommand .hash hashStep s

end Sys2Proof.Machine
end

