-- ==== Sys2Proof/Machine/Permutation.lean ====
section
/-! DEFINITION. The permutation engine, commands FIRST and NEXT (43_permutation.md). -/

namespace Sys2Proof.Machine

/-- `first(n, k)`: all the zeros, then all the ones (R145). -/
def firstSeq (n k : Nat) : BitSeq := List.replicate (n - k) false ++ List.replicate k true

/-- `c[i]`, 0 outside the sequence (R12). -/
def bitAt (c : BitSeq) (i : Nat) : Bool := c.getD i false

/-- Step 1 of `next`: the largest `i` with `0 <= i <= n-2` and `c[i] < c[i+1]` (R146). -/
def pivot (c : BitSeq) : Option Nat :=
  ((List.range (c.length - 1)).filter fun i => !bitAt c i && bitAt c (i + 1)).getLast?

/-- Step 2 of `next`: the largest `j` with `i < j <= n-1` and `c[j] > c[i]` (R146). -/
def swapPartner (c : BitSeq) (i : Nat) : Option Nat :=
  ((List.range c.length).filter fun j => decide (i < j) && (bitAt c j && !bitAt c i)).getLast?

/-- Step 3 of `next`: swap `c[i]` and `c[j]` (R146). -/
def swapBits (c : BitSeq) (i j : Nat) : BitSeq := (c.set i (bitAt c j)).set j (bitAt c i)

/-- Step 4 of `next`: reverse the elements from index `i` on (R146). -/
def reverseFrom (c : BitSeq) (i : Nat) : BitSeq := c.take i ++ (c.drop i).reverse

/-- `next(c)`, `none` for Exhausted (R146). -/
def nextSeq (c : BitSeq) : Option BitSeq := do
  let i ← pivot c
  let j ← swapPartner c i
  return reverseFrom (swapBits c i j) (i + 1)

/-- The checks FIRST and DECODE make before seeding, PARAM before CAPACITY (R147; 44_decoder.md R164; R196). -/
def checkParams (s : State) : Except ErrCode State :=
  if s.totalBits.toNat < s.setBits.toNat then .error .param
  else if s.cfg.nmax < s.totalBits.toNat then .error .capacity
  else .ok s

/-- `c <- first(TOTAL_BITS, SET_BITS)` (R147, R165). -/
def opSeed (s : State) : State := { s with cand := firstSeq s.totalBits.toNat s.setBits.toNat }

/-- The single FSM step in state X_FIRST (R147). -/
def firstStep (s : State) : State := s.conclude ((checkParams s).map opSeed)

/-- The single FSM step in state X_NEXT (R149). -/
def nextStep (s : State) : State :=
  match nextSeq s.cand with
  | none => State.finish { s with exh := true }
  | some c => State.finish { s with cand := c }

/-- FIRST (R147). -/
def execFirst (s : State) : Host.Outcome State Fault Refusal := runCommand .first firstStep s

/-- NEXT (R149). -/
def execNext (s : State) : Host.Outcome State Fault Refusal := runCommand .next nextStep s

end Sys2Proof.Machine
end

