-- ==== Sys2Proof/Machine/Serializer.lean ====
section
/-! DEFINITION. The bit-packing serializer, commands PACK and UNPACK (40_bitpacker.md). -/

namespace Sys2Proof.Machine

/-- The eight bits of a byte, least significant first (R110). -/
def packByte (b : Byte) : BitSeq := (List.range 8).map fun i => b.getLsbD i

/-- `pack(bytes)` (R110). -/
def packBytes (bytes : List Byte) : BitSeq := bytes.flatMap packByte

/-- Byte `j` of `unpack(c)`: the sum of `c[8j + i] << i` (R111). -/
def unpackByte (c : BitSeq) (j : Nat) : Byte := BitVec.ofNat 8 (bitsValue ((c.drop (8 * j)).take 8))

/-- `unpack(c)`, the `len(c) div 8` bytes (R111); the commands raise LengthError when `len(c) mod 8 != 0`. -/
def unpackBits (c : BitSeq) : List Byte := (List.range (c.length / 8)).map fun j => unpackByte c j

/-- `op_pack` (R112): CapacityError before any write. -/
def opPack (s : State) : Except ErrCode State :=
  if bufBytes s.cfg < s.byteCount.toNat then .error .capacity
  else .ok { s with cand := packBytes (inputBytes s) }

/-- `op_unpack` (R113): LengthError before any write. -/
def opUnpack (s : State) : Except ErrCode State :=
  if s.len % 8 ≠ 0 then .error .length
  else .ok
    { s with
      buf := bufWriteBytes s.buf 0 (unpackBits s.cand)
      byteCount := BitVec.ofNat 64 (s.len / 8) }

/-- The single FSM step in state X_PACK (R114). -/
def packStep (s : State) : State := s.conclude (opPack s)

/-- The single FSM step in state X_UNPACK (R115). -/
def unpackStep (s : State) : State := s.conclude (opUnpack s)

/-- PACK (R114). -/
def execPack (s : State) : Host.Outcome State Fault Refusal := runCommand .pack packStep s

/-- UNPACK (R115). -/
def execUnpack (s : State) : Host.Outcome State Fault Refusal := runCommand .unpack unpackStep s

end Sys2Proof.Machine
end

