-- ==== Sys2Proof/Machine/Decoder.lean ====
section
/-! DEFINITION. The decode sequencer, commands LDDESC and DECODE (44_decoder.md). -/

namespace Sys2Proof.Machine

/-- `op_lddesc` (R160): FormatError before any write. -/
def opLddesc (s : State) : Except ErrCode State :=
  if s.drecLen = 24 then
    .ok { s with totalBits := s.drec0, setBits := s.drec1, fingerprint := s.drec2 }
  else .error .format

/-- One comparison is counted, modulo `2^64` (R167, R30). -/
def opCount (s : State) : State := { s with count := s.count + 1 }

/-- The single FSM step in state X_LDDESC (R161). -/
def lddescStep (s : State) : State := s.conclude (opLddesc s)

/-- State D_LOAD (R164, R175). -/
def decLoadStep (s : State) : State :=
  match opLddesc s with
  | .error e => s.fail e
  | .ok t => { t with st := .dCheck }

/-- State D_CHECK (R164, R175). -/
def decCheckStep (s : State) : State :=
  match checkParams s with
  | .error e => s.fail e
  | .ok t => { t with st := .dSeed }

/-- State D_SEED (R165, R175). -/
def decSeedStep (s : State) : State := { opSeed s with st := .dHash }

/-- State D_HASH (R166, R175). -/
def decHashStep (s : State) : State := { opHash s with st := .dCmp }

/-- State D_CMP, the early termination (R167, R175). -/
def decCompareStep (s : State) : State :=
  let t := opCount s
  if t.acc = t.fingerprint then { t with matched := true, st := .dEmit } else { t with st := .dAdv }

/-- State D_ADV, cancel check, then advance (R168, R175). -/
def decAdvanceStep (s : State) : State :=
  if s.cancelReq then s.fail .cancelled
  else
    match nextSeq s.cand with
    | none => State.fail .notFound { s with exh := true }
    | some c => { s with cand := c, st := .dHash }

/-- State D_EMIT (R169, R175). -/
def decEmitStep (s : State) : State := s.conclude (opUnpack s)

/-- The enumeration loop of DECODE (R163): hash, compare, cancel sample, advance. `fuel` bounds the number of
comparisons; a loop that ran out would be left where the next comparison is due, the command still running (log 12). -/
def decodeLoop : Nat → State → State
  | 0, s => { s with st := .dHash }
  | fuel + 1, s =>
    let t := opCount (opHash s)
    if t.acc = t.fingerprint then
      let u := { t with matched := true }
      u.conclude (opUnpack u)
    else
      let u := cancelArrives t
      if u.cancelReq then u.fail .cancelled
      else
        match nextSeq u.cand with
        | none => State.fail .notFound { u with exh := true }
        | some c => decodeLoop fuel { u with cand := c }

/-- A bound on the number of sequences of the seeded length, so on the comparisons (R152, R174; log 12). -/
def decodeFuel (s : State) : Nat := 2 ^ s.len

/-- The effect of a whole DECODE after issue (R163). -/
def decodeBody (s : State) : State :=
  match opLddesc s with
  | .error e => s.fail e
  | .ok t =>
    match checkParams t with
    | .error e => t.fail e
    | .ok u => decodeLoop (decodeFuel (opSeed u)) (opSeed u)

/-- LDDESC (R161). -/
def execLddesc (s : State) : Host.Outcome State Fault Refusal := runCommand .lddesc lddescStep s

/-- DECODE (R163). -/
def execDecode (s : State) : Host.Outcome State Fault Refusal := runCommand .decode decodeBody s

end Sys2Proof.Machine
end

