-- ==== Sys2Proof/Machine/Encoder.lean ====
section
/-! DEFINITION. The encode sequencer and the descriptor record, commands POPCNT, STDESC and ENCODE (42_encoder.md). -/

namespace Sys2Proof.Machine

/-- `popcount(c)` (00_scope.md R12). -/
def popcount (c : BitSeq) : Nat := c.count true

/-- `op_popcnt` (R130). -/
def opPopcnt (s : State) : State := { s with setBits := BitVec.ofNat 64 (popcount s.cand) }

/-- `op_stdesc` (R132). -/
def opStdesc (s : State) : State :=
  { s with drec0 := s.totalBits, drec1 := s.setBits, drec2 := s.fingerprint, drecLen := 24 }

/-- The single FSM step in state X_POPCNT (R131). -/
def popcntStep (s : State) : State := (opPopcnt s).finish

/-- The single FSM step in state X_STDESC (R133). -/
def stdescStep (s : State) : State := (opStdesc s).finish

/-- `TOTAL_BITS <- LEN` (R136). -/
def takeLength (s : State) : State := { s with totalBits := lenWord s }

/-- `FINGERPRINT <- ACC` (R136). -/
def takeFingerprint (s : State) : State := { s with fingerprint := s.acc }

/-- State E_PACK of the encode sequencer (R137). -/
def encPackStep (s : State) : State :=
  match opPack s with
  | .error e => s.fail e
  | .ok t => { t with st := .eCount }

/-- State E_COUNT (R137). -/
def encCountStep (s : State) : State := { opPopcnt (takeLength s) with st := .eHash }

/-- State E_HASH (R137). -/
def encHashStep (s : State) : State := { opHash s with st := .eStore }

/-- State E_STORE (R137). -/
def encStoreStep (s : State) : State := (opStdesc (takeFingerprint s)).finish

/-- The effect of a whole ENCODE after issue (R136). -/
def encodeBody (s : State) : State :=
  s.conclude ((opPack s).map fun t => opStdesc (takeFingerprint (opHash (opPopcnt (takeLength t)))))

/-- POPCNT (R131). -/
def execPopcnt (s : State) : Host.Outcome State Fault Refusal := runCommand .popcnt popcntStep s

/-- STDESC (R133). -/
def execStdesc (s : State) : Host.Outcome State Fault Refusal := runCommand .stdesc stdescStep s

/-- ENCODE (R136). -/
def execEncode (s : State) : Host.Outcome State Fault Refusal := runCommand .encode encodeBody s

end Sys2Proof.Machine
end

