-- ==== Sys2Proof/Machine/Dispatch.lean ====
section
/-! DEFINITION. exec: one arm per command, each one call of its meaning. -/

namespace Sys2Proof.Machine

def exec (i : Instr) (s : State) : Host.Outcome State Fault Refusal :=
  match i with
  | .pack => Sys2Proof.Machine.execPack s
  | .unpack => Sys2Proof.Machine.execUnpack s
  | .hash => Sys2Proof.Machine.execHash s
  | .popcnt => Sys2Proof.Machine.execPopcnt s
  | .first => Sys2Proof.Machine.execFirst s
  | .next => Sys2Proof.Machine.execNext s
  | .lddesc => Sys2Proof.Machine.execLddesc s
  | .stdesc => Sys2Proof.Machine.execStdesc s
  | .encode => Sys2Proof.Machine.execEncode s
  | .decode => Sys2Proof.Machine.execDecode s

end Sys2Proof.Machine
end

