-- ==== Sys2Proof/Machine/Port.lean ====
section
/-! DEFINITION. The host port: address map, access rules, the two transactions, and reset (20_memory.md;
70_reset_and_hazards.md R215, R225). -/

namespace Sys2Proof.Machine

/-- The fifteen register words of the map, in the order of their offsets (R61). -/
inductive PortReg where
  | cmd | status | ctrl | cap | totalBits | setBits | fingerprint | acc | count | len | byteCount | drecLen
  | drec0 | drec1 | drec2
  deriving DecidableEq, Repr

/-- What a mapped offset stands for (R61). -/
inductive PortEntry where
  | reg (r : PortReg)
  | bufWord (w : Nat)
  | candWord (w : Nat)
  deriving DecidableEq, Repr

/-- Why a transaction gets ERROR, in the order the causes are tested (R62). -/
inductive PortError where
  | misaligned | unmapped | readOnly | busy
  deriving DecidableEq, Repr

/-- The register at offset `8 * n` (R61). -/
def regAt (n : Nat) : Option PortReg :=
  match n with
  | 0 => some .cmd
  | 1 => some .status
  | 2 => some .ctrl
  | 3 => some .cap
  | 4 => some .totalBits
  | 5 => some .setBits
  | 6 => some .fingerprint
  | 7 => some .acc
  | 8 => some .count
  | 9 => some .len
  | 10 => some .byteCount
  | 11 => some .drecLen
  | 12 => some .drec0
  | 13 => some .drec1
  | 14 => some .drec2
  | _ => none

/-- The offset of CMD (R61). -/
def cmdOffset : Offset := 0x000000000

/-- The offset of CTRL (R61). -/
def ctrlOffset : Offset := 0x000000010

/-- The base of the BUF window (R61). -/
def bufBase : Nat := 0x100000000

/-- The base of the CAND window (R61). -/
def candBase : Nat := 0x200000000

/-- The end of the CAND window's range; nothing is mapped from here on (R61). -/
def candEnd : Nat := 0x300000000

/-- The number of words in each window, `W = NMAX / 64` (R61). -/
def windowWords (cfg : Config) : Nat := cfg.nmax / 64

/-- The map of an aligned offset (R61); `none` is unmapped. -/
def mapOffset (cfg : Config) (off : Offset) : Option PortEntry :=
  let a := off.toNat
  if a < bufBase then (regAt (a / 8)).map .reg
  else if a < candBase then
    if (a - bufBase) / 8 < windowWords cfg then some (.bufWord ((a - bufBase) / 8)) else none
  else if a < candEnd then
    if (a - candBase) / 8 < windowWords cfg then some (.candWord ((a - candBase) / 8)) else none
  else none

/-- The read-only entries (R61, R62). -/
def readOnly : PortEntry → Bool
  | .reg .status => true
  | .reg .cap => true
  | .reg .acc => true
  | .reg .count => true
  | .reg .len => true
  | .reg _ => false
  | .bufWord _ => false
  | .candWord _ => true

/-- The reads allowed while busy (R62, R225). -/
def readWhileBusy : PortEntry → Bool
  | .reg .status => true
  | .reg .count => true
  | .reg .cap => true
  | .reg .ctrl => true
  | _ => false

/-- The one write allowed while busy (R62, R225). -/
def writeWhileBusy : PortEntry → Bool
  | .reg .ctrl => true
  | _ => false

/-- The entry an aligned, mapped offset stands for, else the first two causes of ERROR (R62). -/
def locate (s : State) (off : Offset) : Except PortError PortEntry :=
  if off.toNat % 8 ≠ 0 then .error .misaligned
  else
    match mapOffset s.cfg off with
    | none => .error .unmapped
    | some e => .ok e

/-- May this read be done, and of what (R62)? -/
def checkRead (s : State) (off : Offset) : Except PortError PortEntry := do
  let e ← locate s off
  if s.busy && !readWhileBusy e then .error .busy else .ok e

/-- May this write be done, and to what (R62)? -/
def checkWrite (s : State) (off : Offset) : Except PortError PortEntry := do
  let e ← locate s off
  if readOnly e then .error .readOnly
  else if s.busy && !writeWhileBusy e then .error .busy
  else .ok e

/-- The 64-bit word an entry reads as. -/
def readEntry (s : State) : PortEntry → Word
  | .reg .cmd => s.cmd
  | .reg .status => statusWord s
  | .reg .ctrl => ctrlWord s
  | .reg .cap => capWord s
  | .reg .totalBits => s.totalBits
  | .reg .setBits => s.setBits
  | .reg .fingerprint => s.fingerprint
  | .reg .acc => s.acc
  | .reg .count => s.count
  | .reg .len => lenWord s
  | .reg .byteCount => s.byteCount
  | .reg .drecLen => s.drecLen
  | .reg .drec0 => s.drec0
  | .reg .drec1 => s.drec1
  | .reg .drec2 => s.drec2
  | .bufWord w => bufWindowWord s w
  | .candWord w => candWindowWord s w

/-- The effect of an accepted write; a read-only entry is never reached (R62). -/
def writeEntry (v : Word) (s : State) : PortEntry → State
  | .reg .cmd => issue v s
  | .reg .status => s
  | .reg .ctrl => writeCtrl v s
  | .reg .cap => s
  | .reg .totalBits => { s with totalBits := v }
  | .reg .setBits => { s with setBits := v }
  | .reg .fingerprint => { s with fingerprint := v }
  | .reg .acc => s
  | .reg .count => s
  | .reg .len => s
  | .reg .byteCount => { s with byteCount := v }
  | .reg .drecLen => { s with drecLen := v }
  | .reg .drec0 => { s with drec0 := v }
  | .reg .drec1 => { s with drec1 := v }
  | .reg .drec2 => { s with drec2 := v }
  | .bufWord w => { s with buf := bufWriteBytes s.buf (8 * w) (le64 v) }
  | .candWord _ => s

/-- `HostRead(off)`: the response and data; a read has no side effect (R60, R62). -/
def hostRead (s : State) (off : Offset) : Reply :=
  match checkRead s off with
  | .ok e => .okayRead (readEntry s e)
  | .error _ => .refused

/-- `HostWrite(off, v)`: the response and the state after it (R60, R62). -/
def hostWrite (s : State) (off : Offset) (v : Word) : Reply × State :=
  match checkWrite s off with
  | .ok e => (.okayWrite, writeEntry v s e)
  | .error _ => (.refused, s)

/-- A read transaction as a move: the port presents its answer. -/
def performRead (off : Offset) (s : State) : State := s.answer (hostRead s off)

/-- A write transaction as a move: its effect, and the port presents its answer. -/
def performWrite (off : Offset) (v : Word) (s : State) : State :=
  (hostWrite s off v).2.answer (hostWrite s off v).1

/-- `rst` as a move: the reset values replace the state; NMAX is a constant, BUF holds what the move says, and the host,
which is outside the block, keeps its script (R215, R218; log 8). -/
def performReset (contents : List Host.Cell) (s : State) : State :=
  { State.resetWith s.cfg (bufOfCells s.cfg contents) with host := s.host }

end Sys2Proof.Machine
end

