-- ==== Sys2Proof/Machine/Sequencer.lean ====
section
/-! DEFINITION. The engine: one FSM step (10_state.md R40), state by state (30_encoding.md R93; 42_encoder.md R137;
44_decoder.md R175; 45_common_laws.md R242). -/

namespace Sys2Proof.Machine

/-- One FSM step; in IDLE no step is enabled and nothing changes (R40, R207). -/
def fsmStep (s : State) : State :=
  match s.st with
  | .idle => s
  | .xPack => packStep s
  | .xUnpack => unpackStep s
  | .xHash => hashStep s
  | .xPopcnt => popcntStep s
  | .xFirst => firstStep s
  | .xNext => nextStep s
  | .xLddesc => lddescStep s
  | .xStdesc => stdescStep s
  | .ePack => encPackStep s
  | .eCount => encCountStep s
  | .eHash => encHashStep s
  | .eStore => encStoreStep s
  | .dLoad => decLoadStep s
  | .dCheck => decCheckStep s
  | .dSeed => decSeedStep s
  | .dHash => decHashStep s
  | .dCmp => decCompareStep s
  | .dAdv => decAdvanceStep s
  | .dEmit => decEmitStep s

/-- The engine's turn: a cancel write whose time has come lands just before the D_ADV step that samples it (R170; log 5),
then the FSM step. With `cancelAt = none` this is the FSM step alone. -/
def engineMove (s : State) : State :=
  if s.st = .dAdv then fsmStep (cancelArrives s) else fsmStep s

end Sys2Proof.Machine
end

