-- ==== Sys2Proof/Machine/Schedule.lean ====
section
/-! DEFINITION. The order of moves (20_memory.md R72): the host's script says which move is next; with no script left the
engine takes its turn (70_reset_and_hazards.md R231; log 3). -/

namespace Sys2Proof.Machine

/-- A word that is no command, written to CMD (R95): the write is the whole of it; a cancel write planned for it lands
after its end. On a busy block the write is refused. -/
def illegalCommand (w : Word) (s : State) : State :=
  if s.busy then performWrite cmdOffset w s else cancelLands (performWrite cmdOffset w s)

/-- The cancel parameter of the command now written, unless the block is busy and will refuse it (R170; log 5). -/
def planCancel (q : Option Nat) (s : State) : State :=
  { s with cancelAt := if s.busy then s.cancelAt else q }

/-- A command word written to CMD and run to its end (R91, R93, R95, R163; log 4). -/
def runWord (w : Word) (s : State) : Host.Outcome State Fault Refusal :=
  match decode w with
  | .ok i => exec i s
  | .error _ => .next (illegalCommand w s)

/-- One move of R72. -/
def perform (m : Move) (s : State) : Host.Outcome State Fault Refusal :=
  match m with
  | .read off => .next (performRead off s)
  | .write off v => .next (performWrite off v s)
  | .engine => .next (engineMove s)
  | .reset contents => .next (performReset contents s)
  | .command w q => runWord w (planCancel q s)

/-- The next move: the host's, or with no script left the engine's. -/
def takeMove (s : State) : Host.Outcome State Fault Refusal :=
  match s.host with
  | [] => .next (engineMove s)
  | m :: rest => perform m { s with host := rest }

end Sys2Proof.Machine
end

