-- ==== Sys2Proof/Machine/Step.lean ====
section
/-! DEFINITION. One step of the machine is one atomic move of 20_memory.md R72. -/

namespace Sys2Proof.Machine

/-- One step: next, fault or refusal. -/
def step (s : State) : Host.Outcome State Fault Refusal := takeMove s

/-- The state in which the host's next move is to write this command word and let it run to its end (log 6). The cancel
parameter stays the one the state holds, so that `step` runs exactly `exec` of the decoded command. -/
def State.withFetchWord (s : State) (nbits w : Nat) : State :=
  { s with host := .command (BitVec.ofNat 64 (w % 2 ^ nbits)) s.cancelAt :: s.host }

end Sys2Proof.Machine
end

