-- ==== Sys2Proof/Safety.lean ====
section
/-! DEFINITION. What counts as a legal state of the block, and the words the statements are made of: how every command
ends, the candidates of a decode, lexicographic order, rank, a run of the engine. -/

namespace Sys2Proof

open Sys2Proof.Machine

/-- The invariants of every reachable state (10_state.md R45), with what makes them kept by every step: the check of
D_CHECK still holds in D_SEED (44_decoder.md R164), and BUF's cells are canonical and lie in BUF (R39). -/
structure Inv (s : State) : Prop where
  /-- NMAX is legal (R8). -/
  config : s.cfg.wf = true
  /-- BUSY is 1 exactly when ST is not IDLE (R45). -/
  busy_iff : s.busy = true ↔ s.st ≠ .idle
  /-- BUSY implies DONE = 0, EXH = 0 and ERR = 0 (R45). -/
  busy_clear : s.busy = true → s.done = false ∧ s.exh = false ∧ s.err = .none
  /-- MATCH is 1 while busy in D_EMIT only, and there always (R45, R226). -/
  matched_iff : s.busy = true → (s.matched = true ↔ s.st = .dEmit)
  /-- `len(c) <= NMAX` (R29, R45). -/
  cand_fits : s.cand.length ≤ s.cfg.nmax
  /-- What D_CHECK established (R164, R165). -/
  seed_checked : s.st = .dSeed → s.setBits.toNat ≤ s.totalBits.toNat ∧ s.totalBits.toNat ≤ s.cfg.nmax
  /-- BUF's cells are in canonical form. -/
  buf_wf : bufWf s.buf = true
  /-- BUF's cells lie in its NMAX/8 bytes (R39). -/
  buf_within : bufWithin s.cfg s.buf = true

/-- What every command leaves alike when the block accepted it and it ended with this code: CMD holds its word, the
outcome flags are set, ST is IDLE, a planned cancel write has landed, the port answered OKAY (R91, R197, R198, R170). -/
def ended (i : Instr) (e : ErrCode) (s : State) : State :=
  { s with
    cmd := encode i
    busy := false
    done := true
    exh := false
    matched := false
    err := e
    st := .idle
    cancelReq := s.cancelAt.isSome
    cancelAt := none
    reply := some .okayWrite }

/-- The state that the sequence reached by `n` applications of `next` holds, if there is one. -/
def nthNext : Nat → BitSeq → Option BitSeq
  | 0, c => some c
  | n + 1, c => (nextSeq c).bind (nthNext n)

/-- The candidate `c_m` of a decode of `(T, K)`, counted from 1 (44_decoder.md, opening; R165). -/
def candidate (T K m : Nat) : Option BitSeq := nthNext (m - 1) (firstSeq T K)

/-- No candidate before the `m`-th has this fingerprint. -/
def noMatchBefore (T K m : Nat) (F : Word) : Prop :=
  ∀ j c, 1 ≤ j → j < m → candidate T K j = some c → fp c ≠ F

/-- Lexicographic order of sequences of equal length, index 0 first, 0 before 1 (00_scope.md R12). -/
def lexLt (a b : BitSeq) : Prop :=
  a.length = b.length ∧ ∃ i, i < a.length ∧ a.take i = b.take i ∧ bitAt a i = false ∧ bitAt b i = true

/-- An arrangement of length `n` with `k` ones (43_permutation.md R145, R152). -/
def isArrangement (n k : Nat) (c : BitSeq) : Prop := c.length = n ∧ popcount c = k

/-- `rank(c)`: the sum over every index `i` with `c[i] = 1` of `C(n - i - 1, k - r_i)`, `r_i` the ones before `i` (R156). -/
def rank (c : BitSeq) : Nat :=
  ((List.range c.length).map fun i =>
    if bitAt c i then Nat.choose (c.length - i - 1) (popcount c - popcount (c.take i)) else 0).sum

/-- `n` turns of the engine with no host move between them. -/
def engineRun : Nat → State → State
  | 0, s => s
  | n + 1, s => engineRun n (engineMove s)

end Sys2Proof
end

