-- ==== Sys2Proof/Certificates/Slice0/Obligations.lean ====
section
/-! DEFINITION. The statements for the provers, each from a numbered rule of spec/ or from several of them. `ended`,
`candidate`, `lexLt`, `rank`, `Inv` and `engineRun` are defined in Sys2Proof/Safety.lean. -/

open Sys2Proof Sys2Proof.Machine

/-! ### Encoding and issue -/

/-- R90: a word is the command with opcode `n` exactly when, as a number, it equals `n` and `1 <= n <= 10`; so decoding
the encoding of a command gives it back, and no other word decodes to it. -/
def Obligations.DecodeExactlyTheTenWords : Prop :=
  (∀ i : Instr, i.wf = true → decode (encode i) = .ok i) ∧
  (∀ (w : Word) (i : Instr), decode w = .ok i ↔ w.toNat = opcode i) ∧
  (∀ w : Word, (1 ≤ w.toNat ∧ w.toNat ≤ 10) ↔ ∃ i, decode w = .ok i)

/-- R92, R99, R95: some words written out from the opcode map, and some that match no row. -/
def Obligations.OpcodeMapWords : Prop :=
  decodeTableWord 64 0x0000000000000001 = some .pack ∧ decodeTableWord 64 0x0000000000000003 = some .hash ∧
  decodeTableWord 64 0x0000000000000005 = some .first ∧ decodeTableWord 64 0x0000000000000009 = some .encode ∧
  decodeTableWord 64 0x000000000000000A = some .decode ∧ decodeTableWord 64 0x0000000000000000 = none ∧
  decodeTableWord 64 0x000000000000000B = none ∧ decodeTableWord 64 0x0000000000000109 = none

/-- R91: what a host write to CMD does, accepted, illegal and refused. -/
def Obligations.IssueOnCmdWrite : Prop :=
  ∀ (s : State) (v : Word),
    (s.busy = true → performWrite 0x0 v s = s.answer .refused) ∧
    (s.busy = false →
      ((v.extractLsb 63 8 ≠ 0 ∨ v.extractLsb 7 0 = 0 ∨ 10 < (v.extractLsb 7 0).toNat) →
        performWrite 0x0 v s =
          { s with cmd := v, done := true, exh := false, matched := false, err := .illegal, cancelReq := false,
                   reply := some ⟨.okay, 0⟩ }) ∧
      (∀ i : Instr, v.toNat = opcode i →
        performWrite 0x0 v s =
          { s with cmd := v, done := false, exh := false, matched := false, err := .none, cancelReq := false,
                   count := if v.toNat = 10 then 0 else s.count, busy := true, st := entry i,
                   reply := some ⟨.okay, 0⟩ }))

/-- R95: every word 0 or above 10 is illegal and ends in the write, with no other effect; every word is a command or
illegal. -/
def Obligations.IllegalWordEndsAtOnce : Prop :=
  (∀ w : Word, (∃ i, decode w = .ok i) ∨ ∃ e, decode w = .error e) ∧
  ∀ (s : State) (w : Word), (w.toNat = 0 ∨ 10 < w.toNat) → s.busy = false →
    (∃ e, decode w = .error e) ∧
    performWrite 0x0 w s =
      { s with cmd := w, done := true, exh := false, matched := false, err := .illegal, cancelReq := false,
               reply := some ⟨.okay, 0⟩ }

/-! ### The step -/

/-- When the host's next move runs a command word that decodes to `i`, the step is `exec` of `i`, with the script moved on
and the cancel parameter armed unless the block is busy; `withFetchWord` is such a state. The script and the move are the
model's choice (logs 3, 4, 5, 6). -/
def Obligations.StepRunsDecodedCommand : Prop :=
  (∀ (s : State) (w : Word) (q : Option Nat) (rest : List Move) (i : Instr),
    s.host = .command w q :: rest → decode w = .ok i →
      step s = exec i { s with host := rest, cancelAt := if s.busy then s.cancelAt else q }) ∧
  (∀ (s : State) (w : Nat) (i : Instr), decodeTableWord 64 w = some i →
      step (s.withFetchWord 64 w) = exec i s)

/-- R72: one step is one move, the host's next one, or with no script left the engine's; in IDLE the engine changes
nothing (R40, R207). That the script picks the move is the model's choice (logs 3, 5, 8, 15). -/
def Obligations.StepIsOneMove : Prop :=
  (∀ s : State, s.host = [] → s.st = .idle → step s = .next s) ∧
  (∀ s : State, s.host = [] → step s = .next (engineMove s)) ∧
  (∀ (s : State) (rest : List Move) (off : Offset), s.host = .read off :: rest →
    step s = .next (performRead off { s with host := rest })) ∧
  (∀ (s : State) (rest : List Move) (off : Offset) (v : Word), s.host = .write off v :: rest →
    step s = .next (performWrite off v { s with host := rest })) ∧
  (∀ (s : State) (rest : List Move), s.host = .engine :: rest →
    step s = .next (engineMove { s with host := rest })) ∧
  (∀ (s : State) (rest : List Move) (contents : List Host.Cell), s.host = .reset contents :: rest →
    step s = .next (performReset contents { s with host := rest })) ∧
  (∀ s : State, s.st ≠ .dAdv → engineMove s = fsmStep s) ∧
  (∀ s : State, s.cancelAt = none → engineMove s = fsmStep s)

/-- 93 section 3: nothing is UNPREDICTABLE; every step of every state has a next state. -/
def Obligations.EveryStepGoesOn : Prop := ∀ s : State, ∃ t, step s = .next t

/-- R93: a primitive command is its issue and exactly one FSM step, which ends it. -/
def Obligations.PrimitiveIsOneFsmStep : Prop :=
  ∀ (i : Instr) (s : State), i ≠ .encode → i ≠ .decode → s.busy = false →
    (fsmStep (performWrite 0x0 (encode i) s)).st = .idle ∧
    exec i s = .next (cancelLands (fsmStep (performWrite 0x0 (encode i) s)))

/-- R93, R137, R163 with R175: the effect of every command from issue to completion is what the engine's FSM steps do one
after another, for every cancel parameter (as the model represents it, logs 4 and 5). -/
def Obligations.CommandIsIssueThenEngine : Prop :=
  ∀ (i : Instr) (s : State), s.busy = false →
    ∃ n, (engineRun n (performWrite 0x0 (encode i) s)).st = .idle ∧
      exec i s = .next (cancelLands (engineRun n (performWrite 0x0 (encode i) s)))

/-! ### The port -/

/-- R62: the transactions that get ERROR are exactly those listed; ERROR changes nothing and reads 0; a read never has a
side effect. The mapped offsets are those of R61. -/
def Obligations.PortErrorsExactly : Prop :=
  ∀ (s : State) (off : Offset), s.cfg.wf = true →
    let a := off.toNat
    let mapped := a ≤ 0x70 ∨ (0x100000000 ≤ a ∧ a < 0x100000000 + 8 * (s.cfg.nmax / 64)) ∨
      (0x200000000 ≤ a ∧ a < 0x200000000 + 8 * (s.cfg.nmax / 64))
    ((hostRead s off).resp = .error ↔
      (a % 8 ≠ 0 ∨ ¬ mapped ∨ (s.busy = true ∧ a ≠ 0x08 ∧ a ≠ 0x40 ∧ a ≠ 0x18 ∧ a ≠ 0x10))) ∧
    ((hostRead s off).resp = .error → (hostRead s off).data = 0) ∧
    performRead off s = s.answer (hostRead s off) ∧
    (∀ v : Word,
      ((hostWrite s off v).1.resp = .error ↔
        (a % 8 ≠ 0 ∨ ¬ mapped ∨
          (a = 0x08 ∨ a = 0x18 ∨ a = 0x38 ∨ a = 0x40 ∨ a = 0x48 ∨ 0x200000000 ≤ a) ∨
          (s.busy = true ∧ a ≠ 0x10))) ∧
      ((hostWrite s off v).1.resp = .error → performWrite off v s = s.answer ⟨.error, 0⟩))

/-- R61 with the register rules: what each register word reads as, idle or busy where the read is allowed. -/
def Obligations.RegisterReads : Prop :=
  ∀ s : State,
    (s.busy = false →
      hostRead s 0x00 = ⟨.okay, s.cmd⟩ ∧ hostRead s 0x20 = ⟨.okay, s.totalBits⟩ ∧
      hostRead s 0x28 = ⟨.okay, s.setBits⟩ ∧ hostRead s 0x30 = ⟨.okay, s.fingerprint⟩ ∧
      hostRead s 0x38 = ⟨.okay, s.acc⟩ ∧ hostRead s 0x48 = ⟨.okay, BitVec.ofNat 64 s.cand.length⟩ ∧
      hostRead s 0x50 = ⟨.okay, s.byteCount⟩ ∧ hostRead s 0x58 = ⟨.okay, s.drecLen⟩ ∧
      hostRead s 0x60 = ⟨.okay, s.drec0⟩ ∧ hostRead s 0x68 = ⟨.okay, s.drec1⟩ ∧
      hostRead s 0x70 = ⟨.okay, s.drec2⟩) ∧
    hostRead s 0x08 = ⟨.okay, statusWord s⟩ ∧ hostRead s 0x10 = ⟨.okay, ctrlWord s⟩ ∧
    hostRead s 0x18 = ⟨.okay, BitVec.ofNat 64 s.cfg.nmax⟩ ∧ hostRead s 0x40 = ⟨.okay, s.count⟩

/-- R21, R73: a plain read-write register reads what was written, and the write changes that register alone. -/
def Obligations.RegisterWrites : Prop :=
  ∀ (s : State) (v : Word), s.busy = false →
    let r : Reply := ⟨.okay, 0⟩
    performWrite 0x20 v s = { s with totalBits := v, reply := some r } ∧
    performWrite 0x28 v s = { s with setBits := v, reply := some r } ∧
    performWrite 0x30 v s = { s with fingerprint := v, reply := some r } ∧
    performWrite 0x50 v s = { s with byteCount := v, reply := some r } ∧
    performWrite 0x58 v s = { s with drecLen := v, reply := some r } ∧
    performWrite 0x60 v s = { s with drec0 := v, reply := some r } ∧
    performWrite 0x68 v s = { s with drec1 := v, reply := some r } ∧
    performWrite 0x70 v s = { s with drec2 := v, reply := some r }

/-- R66: a BUF window word is eight bytes in little-endian order; a write replaces exactly those. -/
def Obligations.BufWindow : Prop :=
  ∀ (s : State) (w : Nat) (off : Offset), s.cfg.wf = true → s.busy = false → bufWf s.buf = true →
    w < s.cfg.nmax / 64 → off.toNat = 0x100000000 + 8 * w →
    (hostRead s off).resp = .okay ∧
    (∀ j i, j < 8 → i < 8 →
      (hostRead s off).data.getLsbD (8 * j + i) = (bufRead s.buf (8 * w + j)).getLsbD i) ∧
    (∀ v : Word,
      (∀ j, j < 8 → bufRead (performWrite off v s).buf (8 * w + j) = (v >>> (8 * j)).setWidth 8) ∧
      (∀ a, (a < 8 * w ∨ 8 * w + 8 ≤ a) → bufRead (performWrite off v s).buf a = bufRead s.buf a) ∧
      performWrite off v s =
        { s with buf := (performWrite off v s).buf, reply := some ⟨.okay, 0⟩ })

/-- R67: bit `b` of CAND window word `w` is `c[64w + b]`, and 0 at and above LEN; the window is read-only. -/
def Obligations.CandWindow : Prop :=
  ∀ (s : State) (w : Nat) (off : Offset), s.cfg.wf = true → s.busy = false →
    w < s.cfg.nmax / 64 → off.toNat = 0x200000000 + 8 * w →
    (hostRead s off).resp = .okay ∧
    (∀ b, b < 64 →
      (hostRead s off).data.getLsbD b = if h : 64 * w + b < s.cand.length then s.cand[64 * w + b] else false) ∧
    ∀ v : Word, performWrite off v s = s.answer ⟨.error, 0⟩

/-- R35 with R185: the bits of STATUS. -/
def Obligations.StatusLayout : Prop :=
  ∀ s : State,
    (statusWord s).getLsbD 0 = s.busy ∧ (statusWord s).getLsbD 1 = s.done ∧
    (statusWord s).getLsbD 2 = s.exh ∧ (statusWord s).getLsbD 3 = s.matched ∧
    (statusWord s).extractLsb 7 4 =
      (match s.err with
        | .none => 0 | .format => 1 | .length => 2 | .notFound => 3
        | .cancelled => 4 | .param => 5 | .capacity => 6 | .illegal => 7 : BitVec 4) ∧
    ∀ i, 8 ≤ i → (statusWord s).getLsbD i = false

/-- R226: STATUS read while busy is 0x01, or 0x09 in D_EMIT. -/
def Obligations.StatusWhileBusy : Prop :=
  ∀ s : State, Inv s → s.busy = true →
    hostRead s 0x08 = ⟨.okay, if s.st = .dEmit then 0x09 else 0x01⟩

/-- R37: a write to CTRL, at any time, and what CTRL reads as. -/
def Obligations.CtrlWriteAndRead : Prop :=
  ∀ (s : State) (v : Word),
    performWrite 0x10 v s =
      { s with ie := v.getLsbD 0
               cancelReq := if v.getLsbD 1 then true else s.cancelReq
               done := if v.getLsbD 2 then false else s.done
               reply := some ⟨.okay, 0⟩ } ∧
    (ctrlWord s).getLsbD 0 = s.ie ∧ (ctrlWord s).getLsbD 1 = s.cancelReq ∧
    ∀ i, 2 ≤ i → (ctrlWord s).getLsbD i = false

/-- R195, R36: the interrupt line follows completion, is masked by IE, and is cleared by ACK and by the next issue. -/
def Obligations.IrqFollowsDone : Prop :=
  (∀ (i : Instr) (s : State), s.busy = false → ∃ t, exec i s = .next t ∧ irq t = s.ie) ∧
  (∀ (s : State) (v : Word), v.getLsbD 2 = true → irq (performWrite 0x10 v s) = false) ∧
  (∀ (s : State) (v : Word), v.getLsbD 0 = false → irq (performWrite 0x10 v s) = false) ∧
  (∀ (i : Instr) (s : State), s.busy = false → irq (performWrite 0x0 (encode i) s) = false)

/-! ### The commands: the whole state each leaves -/

/-- R114 with R112: PACK. `ended` also says what becomes of the model's own `reply` and `cancelAt` (logs 5, 7). -/
def Obligations.PackResult : Prop :=
  ∀ s : State, s.busy = false →
    exec .pack s = .next (
      if s.cfg.nmax / 8 < s.byteCount.toNat then ended .pack .capacity s
      else { ended .pack .none s with
        cand := packBytes ((List.range s.byteCount.toNat).map fun j => bufRead s.buf j) })

/-- R115 with R113: UNPACK. `ended` also says what becomes of the model's own `reply` and `cancelAt` (logs 5, 7). -/
def Obligations.UnpackResult : Prop :=
  ∀ s : State, s.busy = false →
    exec .unpack s = .next (
      if s.cand.length % 8 ≠ 0 then ended .unpack .length s
      else { ended .unpack .none s with
        buf := bufWriteBytes s.buf 0 (unpackBits s.cand)
        byteCount := BitVec.ofNat 64 (s.cand.length / 8) })

/-- R123 with R121: HASH. `ended` also says what becomes of the model's own `reply` and `cancelAt` (logs 5, 7). -/
def Obligations.HashResult : Prop :=
  ∀ s : State, s.busy = false → exec .hash s = .next { ended .hash .none s with acc := fp s.cand }

/-- R131 with R130: POPCNT. `ended` also says what becomes of the model's own `reply` and `cancelAt` (logs 5, 7). -/
def Obligations.PopcntResult : Prop :=
  ∀ s : State, s.busy = false →
    exec .popcnt s = .next { ended .popcnt .none s with setBits := BitVec.ofNat 64 (s.cand.count true) }

/-- R147: FIRST, PARAM before CAPACITY. `ended` also
says what becomes of the model's own `reply` and `cancelAt` (logs 5, 7). -/
def Obligations.FirstResult : Prop :=
  ∀ s : State, s.busy = false →
    exec .first s = .next (
      if s.totalBits.toNat < s.setBits.toNat then ended .first .param s
      else if s.cfg.nmax < s.totalBits.toNat then ended .first .capacity s
      else { ended .first .none s with
        cand := List.replicate (s.totalBits.toNat - s.setBits.toNat) false ++ List.replicate s.setBits.toNat true })

/-- R149, R150: NEXT; on exhaustion EXH is set and CAND stays as it was. `ended` also says what becomes of
the model's own `reply` and `cancelAt` (logs 5, 7). -/
def Obligations.NextResult : Prop :=
  ∀ s : State, s.busy = false →
    exec .next s = .next (
      match nextSeq s.cand with
      | none => { ended .next .none s with exh := true }
      | some d => { ended .next .none s with cand := d })

/-- R161 with R160: LDDESC. `ended` also says what becomes of the model's own `reply` and `cancelAt` (logs 5, 7). -/
def Obligations.LddescResult : Prop :=
  ∀ s : State, s.busy = false →
    exec .lddesc s = .next (
      if s.drecLen ≠ 24 then ended .lddesc .format s
      else { ended .lddesc .none s with totalBits := s.drec0, setBits := s.drec1, fingerprint := s.drec2 })

/-- R133 with R132: STDESC. `ended` also says what becomes of the model's own `reply` and `cancelAt` (logs 5, 7). -/
def Obligations.StdescResult : Prop :=
  ∀ s : State, s.busy = false →
    exec .stdesc s = .next { ended .stdesc .none s with
      drec0 := s.totalBits, drec1 := s.setBits, drec2 := s.fingerprint, drecLen := 24 }

/-- R136: ENCODE. `ended` also says what becomes of the model's own `reply` and `cancelAt` (logs 5, 7). -/
def Obligations.EncodeResult : Prop :=
  ∀ s : State, s.busy = false →
    exec .encode s = .next (
      if s.cfg.nmax / 8 < s.byteCount.toNat then ended .encode .capacity s
      else
        let c := packBytes ((List.range s.byteCount.toNat).map fun j => bufRead s.buf j)
        { ended .encode .none s with
          cand := c
          totalBits := BitVec.ofNat 64 (8 * s.byteCount.toNat)
          setBits := BitVec.ofNat 64 (c.count true)
          acc := fp c
          fingerprint := fp c
          drec0 := BitVec.ofNat 64 (8 * s.byteCount.toNat)
          drec1 := BitVec.ofNat 64 (c.count true)
          drec2 := fp c
          drecLen := 24 })

/-- R173, first three rows; R164, R196: FORMAT, then PARAM, then CAPACITY, before any enumeration. -/
def Obligations.DecodeEntryErrors : Prop :=
  ∀ s : State, s.busy = false →
    (s.drecLen ≠ 24 → exec .decode s = .next { ended .decode .format s with count := 0 }) ∧
    (s.drecLen = 24 → s.drec0.toNat < s.drec1.toNat →
      exec .decode s = .next { ended .decode .param s with
        count := 0, totalBits := s.drec0, setBits := s.drec1, fingerprint := s.drec2 }) ∧
    (s.drecLen = 24 → s.drec1.toNat ≤ s.drec0.toNat → s.cfg.nmax < s.drec0.toNat →
      exec .decode s = .next { ended .decode .capacity s with
        count := 0, totalBits := s.drec0, setBits := s.drec1, fingerprint := s.drec2 })

/-- R173, success and LengthError; R170, R176: the first candidate that matches ends the search, unless a cancel came
before it. A `cancelAt` of 0 counts as 1 (log 5). -/
def Obligations.DecodeStopsAtFirstMatch : Prop :=
  ∀ (s : State) (m : Nat) (c : BitSeq), s.busy = false → s.drecLen = 24 →
    s.drec1.toNat ≤ s.drec0.toNat → s.drec0.toNat ≤ s.cfg.nmax →
    1 ≤ m → candidate s.drec0.toNat s.drec1.toNat m = some c → fp c = s.drec2 →
    noMatchBefore s.drec0.toNat s.drec1.toNat m s.drec2 →
    (∀ q, s.cancelAt = some q → m ≤ max q 1) →
    (s.drec0.toNat % 8 = 0 →
      exec .decode s = .next { ended .decode .none s with
        matched := true, count := BitVec.ofNat 64 m
        totalBits := s.drec0, setBits := s.drec1, fingerprint := s.drec2
        cand := c, acc := s.drec2
        buf := bufWriteBytes s.buf 0 (unpackBits c), byteCount := BitVec.ofNat 64 (s.drec0.toNat / 8) }) ∧
    (s.drec0.toNat % 8 ≠ 0 →
      exec .decode s = .next { ended .decode .length s with
        matched := true, count := BitVec.ofNat 64 m
        totalBits := s.drec0, setBits := s.drec1, fingerprint := s.drec2
        cand := c, acc := s.drec2 })

/-- R173, Cancelled; R168, R170: with no match among the first `q` candidates, DECODE ends Cancelled after `q`
comparisons. A `cancelAt` of 0 counts as 1 (log 5). -/
def Obligations.DecodeCancelled : Prop :=
  ∀ (s : State) (q : Nat) (c : BitSeq), s.busy = false → s.drecLen = 24 →
    s.drec1.toNat ≤ s.drec0.toNat → s.drec0.toNat ≤ s.cfg.nmax →
    s.cancelAt = some q → candidate s.drec0.toNat s.drec1.toNat (max q 1) = some c →
    noMatchBefore s.drec0.toNat s.drec1.toNat (max q 1 + 1) s.drec2 →
    exec .decode s = .next { ended .decode .cancelled s with
      count := BitVec.ofNat 64 (max q 1)
      totalBits := s.drec0, setBits := s.drec1, fingerprint := s.drec2
      cand := c, acc := fp c }

/-- R173, NotFoundError; R168, R171: with no match among all `C(T, K)` candidates and no cancel before the last of
them. -/
def Obligations.DecodeNotFound : Prop :=
  ∀ s : State, s.busy = false → s.drecLen = 24 →
    s.drec1.toNat ≤ s.drec0.toNat → s.drec0.toNat ≤ s.cfg.nmax →
    (∀ c, isArrangement s.drec0.toNat s.drec1.toNat c → fp c ≠ s.drec2) →
    (∀ q, s.cancelAt = some q → Nat.choose s.drec0.toNat s.drec1.toNat < q) →
    let last := List.replicate s.drec1.toNat true ++ List.replicate (s.drec0.toNat - s.drec1.toNat) false
    exec .decode s = .next { ended .decode .notFound s with
      exh := true, count := BitVec.ofNat 64 (Nat.choose s.drec0.toNat s.drec1.toNat)
      totalBits := s.drec0, setBits := s.drec1, fingerprint := s.drec2
      cand := last, acc := fp last }

/-- R174, R231: every DECODE ends, with at most `C(T, K)` comparisons, in at most `3 C(T, K) + 4` FSM steps. -/
def Obligations.DecodeEnds : Prop :=
  ∀ s : State, s.busy = false →
    (∃ t, exec .decode s = .next t ∧ t.busy = false ∧ t.done = true ∧ t.st = .idle) ∧
    (s.drec1.toNat ≤ s.drec0.toNat → s.drec0.toNat ≤ s.cfg.nmax →
      ∃ n, n ≤ 3 * Nat.choose s.drec0.toNat s.drec1.toNat + 4 ∧
        (engineRun n (performWrite 0x0 (encode .decode) s)).st = .idle)

/-- R181: DECODE depends on nothing but the record, NMAX and the cancel parameter. -/
def Obligations.DecodeUsesOnlyTheRecord : Prop :=
  ∀ s₁ s₂ : State, s₁.busy = false → s₂.busy = false → bufWf s₁.buf = true → bufWf s₂.buf = true →
    s₁.cfg = s₂.cfg → s₁.drecLen = s₂.drecLen → s₁.drec0 = s₂.drec0 → s₁.drec1 = s₂.drec1 →
    s₁.drec2 = s₂.drec2 → s₁.cancelAt = s₂.cancelAt →
    ∃ t₁ t₂, exec .decode s₁ = .next t₁ ∧ exec .decode s₂ = .next t₂ ∧
      statusWord t₁ = statusWord t₂ ∧ t₁.count = t₂.count ∧
      (t₁.err ≠ .format →
        t₁.totalBits = t₂.totalBits ∧ t₁.setBits = t₂.setBits ∧ t₁.fingerprint = t₂.fingerprint) ∧
      (t₁.count ≠ 0 → t₁.cand = t₂.cand ∧ t₁.acc = t₂.acc) ∧
      (t₁.err = .none → t₁.byteCount = t₂.byteCount ∧
        ∀ j, j < t₁.cand.length / 8 → bufRead t₁.buf j = bufRead t₂.buf j)

/-- R177: ENCODE then DECODE with no cancel succeeds, and gives the bytes back unless a smaller arrangement collides. -/
def Obligations.RoundTrip : Prop :=
  ∀ s : State, s.cfg.wf = true → s.busy = false → bufWf s.buf = true → s.byteCount.toNat ≤ s.cfg.nmax / 8 →
    s.cancelAt = none →
    ∃ t u, exec .encode s = .next t ∧ exec .decode t = .next u ∧
      u.err = .none ∧ u.matched = true ∧ u.byteCount = s.byteCount ∧
      ((∀ d, lexLt d t.cand → popcount d = popcount t.cand → fp d ≠ fp t.cand) →
        ∀ j, j < s.byteCount.toNat → bufRead u.buf j = bufRead s.buf j)

/-! ### Frames -/

/-- R44: no command changes a register or store outside its row of the table (CMD, the outcome flags, CANCEL_REQ and the
model's own reply and cancel parameter are what `ended` says). -/
def Obligations.CommandsWriteOnlyTheirRow : Prop :=
  ∀ (i : Instr) (s : State), s.busy = false → ∃ t, exec i s = .next t ∧
    t.cfg = s.cfg ∧ t.ie = s.ie ∧ t.host = s.host ∧
    (i ≠ .lddesc → i ≠ .encode → i ≠ .decode → t.totalBits = s.totalBits ∧ t.fingerprint = s.fingerprint) ∧
    (i ≠ .popcnt → i ≠ .lddesc → i ≠ .encode → i ≠ .decode → t.setBits = s.setBits) ∧
    (i ≠ .hash → i ≠ .encode → i ≠ .decode → t.acc = s.acc) ∧
    (i ≠ .decode → t.count = s.count ∧ t.matched = false) ∧
    (i ≠ .next → i ≠ .decode → t.exh = false) ∧
    (i ≠ .unpack → i ≠ .decode → t.byteCount = s.byteCount) ∧
    (i ≠ .stdesc → i ≠ .encode →
      t.drec0 = s.drec0 ∧ t.drec1 = s.drec1 ∧ t.drec2 = s.drec2 ∧ t.drecLen = s.drecLen) ∧
    (i ≠ .pack → i ≠ .first → i ≠ .next → i ≠ .encode → i ≠ .decode → t.cand = s.cand) ∧
    (i ≠ .unpack → i ≠ .decode → ∀ a, bufRead t.buf a = bufRead s.buf a) ∧
    (∀ a, t.cand.length / 8 ≤ a → bufRead t.buf a = bufRead s.buf a)

/-- R113, R169: on success UNPACK and DECODE store byte `j` of `unpack(c)` at BUF[j], for `j` below LEN/8; on failure no
byte and not BYTE_COUNT. -/
def Obligations.BytesStored : Prop :=
  ∀ (i : Instr) (s : State), i = .unpack ∨ i = .decode → s.busy = false → bufWf s.buf = true →
    ∃ t, exec i s = .next t ∧
      (t.err = .none → t.cand.length % 8 = 0 ∧ t.byteCount = BitVec.ofNat 64 (t.cand.length / 8) ∧
        ∀ j b, j < t.cand.length / 8 → b < 8 →
          (bufRead t.buf j).getLsbD b = t.cand.getD (8 * j + b) false) ∧
      (t.err ≠ .none → t.byteCount = s.byteCount ∧ ∀ a, bufRead t.buf a = bufRead s.buf a)

/-- R233, R243, R138: an FSM step changes a byte of BUF only in X_UNPACK or D_EMIT, and only below LEN/8. -/
def Obligations.EngineWritesBufOnlyOnOutput : Prop :=
  ∀ (s : State) (a : Nat), bufRead (engineMove s).buf a ≠ bufRead s.buf a →
    (s.st = .xUnpack ∨ s.st = .dEmit) ∧ a < s.cand.length / 8

/-- R30, R167: COUNT is changed by an FSM step in D_CMP only, by 1 modulo 2^64, and by the issue of DECODE only, to 0. -/
def Obligations.CountChangesOnlyInDecode : Prop :=
  (∀ s : State, (engineMove s).count = if s.st = .dCmp then s.count + 1 else s.count) ∧
  (∀ (s : State) (off : Offset) (v : Word), (performWrite off v s).count ≠ s.count →
    s.busy = false ∧ off = 0x0 ∧ v = 10 ∧ (performWrite off v s).count = 0)

/-- R228, R37: no command sees a cancel request made before its issue; only DECODE sees one made while it runs. -/
def Obligations.CancelReachesOnlyDecode : Prop :=
  (∀ (i : Instr) (s : State) (b : Bool), s.busy = false → exec i { s with cancelReq := b } = exec i s) ∧
  (∀ (i : Instr) (s : State) (q : Option Nat), i ≠ .decode → s.busy = false →
    ∃ t, exec i { s with cancelAt := none } = .next t ∧
      exec i { s with cancelAt := q } = .next { t with cancelReq := q.isSome })

/-! ### Invariants and reset -/

/-- R45 and R39: every step keeps the invariants of the block. -/
def Obligations.StepKeepsInvariants : Prop := ∀ s t : State, Inv s → step s = .next t → Inv t

/-- R38: CAP reads as NMAX at all times, it cannot be written, and no step, a reset included, changes NMAX. -/
def Obligations.CapIsConstant : Prop :=
  (∀ s t : State, step s = .next t → t.cfg = s.cfg) ∧
  (∀ s : State, hostRead s 0x18 = ⟨.okay, BitVec.ofNat 64 s.cfg.nmax⟩) ∧
  (∀ (s : State) (v : Word), performWrite 0x18 v s = s.answer ⟨.error, 0⟩)

/-- R46, R215: the state after reset, for every NMAX and every contents of BUF, and that reset takes any state, a running
command included, to it; only BUF is what the environment gives (R218). -/
def Obligations.ResetValues : Prop :=
  (∀ (cfg : Config) (buf : List Host.Cell),
    let s := State.resetWith cfg buf
    s.cmd = 0 ∧ statusWord s = 0 ∧ s.ie = false ∧ s.cancelReq = false ∧ capWord s = BitVec.ofNat 64 cfg.nmax ∧
    s.totalBits = 0 ∧ s.setBits = 0 ∧ s.fingerprint = 0 ∧ s.acc = 0 ∧ s.count = 0 ∧ s.cand = [] ∧ lenWord s = 0 ∧
    s.byteCount = 0 ∧ s.drecLen = 0 ∧ s.drec0 = 0 ∧ s.drec1 = 0 ∧ s.drec2 = 0 ∧ s.buf = buf ∧ s.st = .idle ∧
    irq s = false) ∧
  (∀ (s : State) (contents : List Host.Cell), bufWf contents = true → bufWithin s.cfg contents = true →
    ∃ b r h q, performReset contents s = { State.resetWith s.cfg b with reply := r, host := h, cancelAt := q } ∧
      ∀ a, bufRead b a = bufRead contents a)

/-- The invariants hold after reset, whatever BUF's cells in BUF are; so at State.reset, whose NMAX is the model's choice
(log 1) and whose BUF contents are too (log 2); and a reset move reaches them from every state with a legal NMAX
(R215, R218). -/
def Obligations.ResetMeetsInvariants : Prop :=
  Inv State.reset ∧
  (∀ (cfg : Config) (buf : List Host.Cell), cfg.wf = true → bufWf buf = true → bufWithin cfg buf = true →
    Inv (State.resetWith cfg buf)) ∧
  (∀ (s : State) (contents : List Host.Cell), s.cfg.wf = true → Inv (performReset contents s))

/-! ### The sequencers -/

/-- R175: the decode sequencer, row by row. -/
def Obligations.DecodeSequencerTable : Prop :=
  ∀ s : State,
    (s.st = .idle → fsmStep s = s ∧ (s.busy = false →
      (performWrite 0x0 10 s).st = .dLoad ∧ (performWrite 0x0 10 s).count = 0)) ∧
    (s.st = .dLoad → fsmStep s =
      if s.drecLen ≠ 24 then s.fail .format
      else { s with totalBits := s.drec0, setBits := s.drec1, fingerprint := s.drec2, st := .dCheck }) ∧
    (s.st = .dCheck → fsmStep s =
      if s.totalBits.toNat < s.setBits.toNat then s.fail .param
      else if s.cfg.nmax < s.totalBits.toNat then s.fail .capacity else { s with st := .dSeed }) ∧
    (s.st = .dSeed → fsmStep s = { s with cand := firstSeq s.totalBits.toNat s.setBits.toNat, st := .dHash }) ∧
    (s.st = .dHash → fsmStep s = { s with acc := fp s.cand, st := .dCmp }) ∧
    (s.st = .dCmp → fsmStep s =
      if s.acc = s.fingerprint then { s with count := s.count + 1, matched := true, st := .dEmit }
      else { s with count := s.count + 1, st := .dAdv }) ∧
    (s.st = .dAdv → fsmStep s =
      if s.cancelReq = true then s.fail .cancelled
      else match nextSeq s.cand with
        | none => State.fail .notFound { s with exh := true }
        | some c => { s with cand := c, st := .dHash }) ∧
    (s.st = .dEmit → fsmStep s =
      if s.cand.length % 8 ≠ 0 then s.fail .length
      else State.finish { s with buf := bufWriteBytes s.buf 0 (unpackBits s.cand)
                                 byteCount := BitVec.ofNat 64 (s.cand.length / 8) })

/-- R137: the encode sequencer, row by row. -/
def Obligations.EncodeSequencerTable : Prop :=
  ∀ s : State,
    (s.st = .ePack → fsmStep s =
      if s.cfg.nmax / 8 < s.byteCount.toNat then s.fail .capacity
      else { s with cand := packBytes (inputBytes s), st := .eCount }) ∧
    (s.st = .eCount → fsmStep s =
      { s with totalBits := BitVec.ofNat 64 s.cand.length, setBits := BitVec.ofNat 64 (s.cand.count true)
               st := .eHash }) ∧
    (s.st = .eHash → fsmStep s = { s with acc := fp s.cand, st := .eStore }) ∧
    (s.st = .eStore → fsmStep s = State.finish
      { s with fingerprint := s.acc, drec0 := s.totalBits, drec1 := s.setBits, drec2 := s.acc, drecLen := 24 })

/-- R242: the engine makes no transition of ST but those of the table. -/
def Obligations.EngineTransitions : Prop :=
  ∀ s : State, (s.st, (engineMove s).st) ∈
    ([(.idle, .idle), (.xPack, .idle), (.xUnpack, .idle), (.xHash, .idle), (.xPopcnt, .idle), (.xFirst, .idle),
      (.xNext, .idle), (.xLddesc, .idle), (.xStdesc, .idle), (.ePack, .eCount), (.ePack, .idle), (.eCount, .eHash),
      (.eHash, .eStore), (.eStore, .idle), (.dLoad, .dCheck), (.dLoad, .idle), (.dCheck, .dSeed), (.dCheck, .idle),
      (.dSeed, .dHash), (.dHash, .dCmp), (.dCmp, .dEmit), (.dCmp, .dAdv), (.dAdv, .idle), (.dAdv, .dHash),
      (.dEmit, .idle)] : List (Sequencer × Sequencer))

/-! ### The datapath functions -/

/-- R110, R111: which bit of which byte each index of a sequence is, both ways. -/
def Obligations.PackAndUnpackBits : Prop :=
  (∀ bytes : List Byte, (packBytes bytes).length = 8 * bytes.length ∧
    ∀ (j i : Nat) (hj : j < bytes.length), i < 8 →
      (packBytes bytes).getD (8 * j + i) false = bytes[j].getLsbD i) ∧
  (∀ c : BitSeq, c.length % 8 = 0 → (unpackBits c).length = c.length / 8 ∧
    ∀ (j i : Nat) (hj : j < (unpackBits c).length), i < 8 →
      (unpackBits c)[j].getLsbD i = c.getD (8 * j + i) false)

/-- R116: `pack` and `unpack` are inverse, also as commands: PACK then UNPACK leaves BUF and BYTE_COUNT as they were. -/
def Obligations.PackUnpackInverse : Prop :=
  (∀ bytes : List Byte, unpackBits (packBytes bytes) = bytes) ∧
  (∀ c : BitSeq, c.length % 8 = 0 → packBytes (unpackBits c) = c) ∧
  (∀ bytes : List Byte, (packBytes bytes).length = 8 * bytes.length) ∧
  (∀ bytes : List Byte, popcount (packBytes bytes) =
    (bytes.map fun b => ((List.range 8).filter fun i => b.getLsbD i).length).sum) ∧
  (∀ s : State, s.busy = false → bufWf s.buf = true → s.byteCount.toNat ≤ s.cfg.nmax / 8 →
    ∃ t u, exec .pack s = .next t ∧ exec .unpack t = .next u ∧ u.err = .none ∧ u.byteCount = s.byteCount ∧
      ∀ a, bufRead u.buf a = bufRead s.buf a)

/-- R68: after PACK or ENCODE without error, a CAND window word is the BUF window word with the bits at and above LEN
masked to 0. -/
def Obligations.PackedWindowsAgree : Prop :=
  ∀ (i : Instr) (s : State), i = .pack ∨ i = .encode → s.busy = false → s.byteCount.toNat ≤ s.cfg.nmax / 8 →
    ∃ t, exec i s = .next t ∧ ∀ w b, b < 64 →
      (candWindowWord t w).getLsbD b = ((bufWindowWord t w).getLsbD b && decide (64 * w + b < t.cand.length))

/-- R120: the recurrence, the constants and the order of the fingerprint. -/
def Obligations.FingerprintRecurrence : Prop :=
  fp [] = 0xCBF29CE484222325 ∧
  ∀ (c : BitSeq) (b : Bool),
    (fp (c ++ [b])).toNat = (((fp c).toNat ^^^ b.toNat) * 1099511628211) % 2 ^ 64

/-- R125: each step of the recurrence is one-to-one, so two sequences of one length that differ in exactly one index have
different fingerprints, and sequences with a common suffix collide exactly when their prefixes do. -/
def Obligations.FingerprintSingleBit : Prop :=
  (∀ (a b : Word) (x : Bool), fpStep a x = fpStep b x → a = b) ∧
  (∀ (p r : BitSeq) (x : Bool), fp (p ++ [x] ++ r) ≠ fp (p ++ [!x] ++ r)) ∧
  (∀ p q r : BitSeq, p.length = q.length → (fp (p ++ r) = fp (q ++ r) ↔ fp p = fp q))

/-- R126: bit 0 of a fingerprint is 1 xor the parity of the set-bit count. -/
def Obligations.FingerprintParity : Prop :=
  ∀ c : BitSeq, (fp c).getLsbD 0 = decide (popcount c % 2 = 0)

/-- R148: the closed form of `next`, and when it is Exhausted. -/
def Obligations.NextClosedForm : Prop :=
  (∀ (p : BitSeq) (a b : Nat), 1 ≤ a →
    nextSeq (p ++ [false] ++ List.replicate a true ++ List.replicate b false) =
      some (p ++ [true] ++ List.replicate (b + 1) false ++ List.replicate (a - 1) true)) ∧
  (∀ c : BitSeq, (∃ p a b, 1 ≤ a ∧ c = p ++ [false] ++ List.replicate a true ++ List.replicate b false) ↔
    ¬ ∃ x y, c = List.replicate x true ++ List.replicate y false) ∧
  (∀ c : BitSeq, nextSeq c = none ↔ ∃ x y, c = List.replicate x true ++ List.replicate y false)

/-- R154: `next` keeps the length and the set-bit count. -/
def Obligations.NextKeepsLengthAndCount : Prop :=
  ∀ c d : BitSeq, nextSeq c = some d → d.length = c.length ∧ popcount d = popcount c

/-- R153: `next(c)` is the least arrangement greater than `c`; `first` is the least of all and `1^k 0^(n-k)` the
greatest. -/
def Obligations.NextIsLeastGreater : Prop :=
  (∀ c d : BitSeq, nextSeq c = some d →
    lexLt c d ∧ ∀ e, popcount e = popcount c → ¬ (lexLt c e ∧ lexLt e d)) ∧
  (∀ (n k : Nat) (c : BitSeq), k ≤ n → isArrangement n k c →
    (c = firstSeq n k ∨ lexLt (firstSeq n k) c) ∧
    (c = List.replicate k true ++ List.replicate (n - k) false ∨
      lexLt c (List.replicate k true ++ List.replicate (n - k) false)))

/-- R152: the chain from `first(n, k)` has exactly `C(n, k)` members before Exhausted, all different, and they are all the
arrangements. -/
def Obligations.EnumerationIsComplete : Prop :=
  ∀ n k : Nat, k ≤ n →
    (∀ m, (∃ c, candidate n k (m + 1) = some c) ↔ m < Nat.choose n k) ∧
    (∀ i j c, candidate n k (i + 1) = some c → candidate n k (j + 1) = some c → i = j) ∧
    (∀ c, isArrangement n k c ↔ ∃ m, candidate n k (m + 1) = some c)

/-- R156: `rank`, the number of applications of `next` that lead from `first(n, k)` to an arrangement. -/
def Obligations.RankCountsSteps : Prop :=
  (∀ (n k : Nat) (c : BitSeq), k ≤ n → isArrangement n k c → nthNext (rank c) (firstSeq n k) = some c) ∧
  (∀ n k : Nat, k ≤ n → rank (firstSeq n k) = 0 ∧
    rank (List.replicate k true ++ List.replicate (n - k) false) = Nat.choose n k - 1)

/-! ### Laws over several commands -/

/-- R139: the descriptor invariant after an ENCODE without error. -/
def Obligations.EncodeMakesDescriptor : Prop :=
  ∀ s : State, s.cfg.wf = true → s.busy = false → s.byteCount.toNat ≤ s.cfg.nmax / 8 →
    ∃ t, exec .encode s = .next t ∧ t.err = .none ∧
      t.setBits.toNat ≤ t.totalBits.toNat ∧ t.totalBits.toNat % 8 = 0 ∧
      t.totalBits.toNat = 8 * s.byteCount.toNat ∧ t.totalBits.toNat ≤ s.cfg.nmax ∧
      t.setBits.toNat = popcount (packBytes (inputBytes s)) ∧ t.fingerprint = fp (packBytes (inputBytes s)) ∧
      t.drec0 = t.totalBits ∧ t.drec1 = t.setBits ∧ t.drec2 = t.fingerprint ∧ t.drecLen = 24

/-- R140: ENCODE equals PACK, a copy of LEN to TOTAL_BITS, POPCNT, HASH, a copy of ACC to FINGERPRINT, STDESC, in every
field but CMD. -/
def Obligations.EncodeEqualsPrimitives : Prop :=
  ∀ s : State, s.busy = false → s.byteCount.toNat ≤ s.cfg.nmax / 8 → s.cancelAt = none →
    ∃ s₁ s₂ s₃ s₄ t, exec .pack s = .next s₁ ∧
      exec .popcnt (performWrite 0x20 (hostRead s₁ 0x48).data s₁) = .next s₂ ∧
      exec .hash s₂ = .next s₃ ∧
      exec .stdesc (performWrite 0x30 (hostRead s₃ 0x38).data s₃) = .next s₄ ∧
      exec .encode s = .next t ∧ s₄ = { t with cmd := 8 }

/-- R151, R178: with no ones or only ones there is one candidate; FIRST then NEXT exhausts at once, and DECODE of such a
record with the candidate's fingerprint matches at COUNT = 1. -/
def Obligations.SingleMemberEnumerations : Prop :=
  (∀ s : State, s.busy = false → s.totalBits.toNat ≤ s.cfg.nmax →
    (s.setBits = 0 ∨ s.setBits = s.totalBits) →
    ∃ t u, exec .first s = .next t ∧ exec .next t = .next u ∧ t.err = .none ∧ u.exh = true ∧ u.cand = t.cand) ∧
  (∀ s : State, s.busy = false → s.drecLen = 24 → s.drec0.toNat ≤ s.cfg.nmax → s.drec0.toNat % 8 = 0 →
    (s.drec1 = 0 ∨ s.drec1 = s.drec0) → s.drec2 = fp (firstSeq s.drec0.toNat s.drec1.toNat) →
    ∃ t, exec .decode s = .next t ∧ t.err = .none ∧ t.matched = true ∧ t.count = 1 ∧
      t.byteCount = BitVec.ofNat 64 (s.drec0.toNat / 8))
end

