-- ==== Sys2Proof/Laws/State.lean ====
section
/-! SUPPORT. What each named update of a state leaves in each field, so that no later proof unfolds a record update. -/

namespace Sys2Proof.Machine

/-! ### State.finish -/

@[simp] theorem State.finish_cfg (s : State) : s.finish.cfg = s.cfg := rfl
@[simp] theorem State.finish_cmd (s : State) : s.finish.cmd = s.cmd := rfl
@[simp] theorem State.finish_busy (s : State) : s.finish.busy = false := rfl
@[simp] theorem State.finish_done (s : State) : s.finish.done = true := rfl
@[simp] theorem State.finish_exh (s : State) : s.finish.exh = s.exh := rfl
@[simp] theorem State.finish_matched (s : State) : s.finish.matched = s.matched := rfl
@[simp] theorem State.finish_err (s : State) : s.finish.err = s.err := rfl
@[simp] theorem State.finish_ie (s : State) : s.finish.ie = s.ie := rfl
@[simp] theorem State.finish_cancelReq (s : State) : s.finish.cancelReq = s.cancelReq := rfl
@[simp] theorem State.finish_totalBits (s : State) : s.finish.totalBits = s.totalBits := rfl
@[simp] theorem State.finish_setBits (s : State) : s.finish.setBits = s.setBits := rfl
@[simp] theorem State.finish_fingerprint (s : State) : s.finish.fingerprint = s.fingerprint := rfl
@[simp] theorem State.finish_acc (s : State) : s.finish.acc = s.acc := rfl
@[simp] theorem State.finish_count (s : State) : s.finish.count = s.count := rfl
@[simp] theorem State.finish_byteCount (s : State) : s.finish.byteCount = s.byteCount := rfl
@[simp] theorem State.finish_drecLen (s : State) : s.finish.drecLen = s.drecLen := rfl
@[simp] theorem State.finish_drec0 (s : State) : s.finish.drec0 = s.drec0 := rfl
@[simp] theorem State.finish_drec1 (s : State) : s.finish.drec1 = s.drec1 := rfl
@[simp] theorem State.finish_drec2 (s : State) : s.finish.drec2 = s.drec2 := rfl
@[simp] theorem State.finish_cand (s : State) : s.finish.cand = s.cand := rfl
@[simp] theorem State.finish_buf (s : State) : s.finish.buf = s.buf := rfl
@[simp] theorem State.finish_st (s : State) : s.finish.st = .idle := rfl
@[simp] theorem State.finish_reply (s : State) : s.finish.reply = s.reply := rfl
@[simp] theorem State.finish_host (s : State) : s.finish.host = s.host := rfl
@[simp] theorem State.finish_cancelAt (s : State) : s.finish.cancelAt = s.cancelAt := rfl

/-! ### State.fail -/

@[simp] theorem State.fail_cfg (e : ErrCode) (s : State) : (s.fail e).cfg = s.cfg := rfl
@[simp] theorem State.fail_cmd (e : ErrCode) (s : State) : (s.fail e).cmd = s.cmd := rfl
@[simp] theorem State.fail_busy (e : ErrCode) (s : State) : (s.fail e).busy = false := rfl
@[simp] theorem State.fail_done (e : ErrCode) (s : State) : (s.fail e).done = true := rfl
@[simp] theorem State.fail_exh (e : ErrCode) (s : State) : (s.fail e).exh = s.exh := rfl
@[simp] theorem State.fail_matched (e : ErrCode) (s : State) : (s.fail e).matched = s.matched := rfl
@[simp] theorem State.fail_err (e : ErrCode) (s : State) : (s.fail e).err = e := rfl
@[simp] theorem State.fail_ie (e : ErrCode) (s : State) : (s.fail e).ie = s.ie := rfl
@[simp] theorem State.fail_cancelReq (e : ErrCode) (s : State) : (s.fail e).cancelReq = s.cancelReq := rfl
@[simp] theorem State.fail_totalBits (e : ErrCode) (s : State) : (s.fail e).totalBits = s.totalBits := rfl
@[simp] theorem State.fail_setBits (e : ErrCode) (s : State) : (s.fail e).setBits = s.setBits := rfl
@[simp] theorem State.fail_fingerprint (e : ErrCode) (s : State) : (s.fail e).fingerprint = s.fingerprint := rfl
@[simp] theorem State.fail_acc (e : ErrCode) (s : State) : (s.fail e).acc = s.acc := rfl
@[simp] theorem State.fail_count (e : ErrCode) (s : State) : (s.fail e).count = s.count := rfl
@[simp] theorem State.fail_byteCount (e : ErrCode) (s : State) : (s.fail e).byteCount = s.byteCount := rfl
@[simp] theorem State.fail_drecLen (e : ErrCode) (s : State) : (s.fail e).drecLen = s.drecLen := rfl
@[simp] theorem State.fail_drec0 (e : ErrCode) (s : State) : (s.fail e).drec0 = s.drec0 := rfl
@[simp] theorem State.fail_drec1 (e : ErrCode) (s : State) : (s.fail e).drec1 = s.drec1 := rfl
@[simp] theorem State.fail_drec2 (e : ErrCode) (s : State) : (s.fail e).drec2 = s.drec2 := rfl
@[simp] theorem State.fail_cand (e : ErrCode) (s : State) : (s.fail e).cand = s.cand := rfl
@[simp] theorem State.fail_buf (e : ErrCode) (s : State) : (s.fail e).buf = s.buf := rfl
@[simp] theorem State.fail_st (e : ErrCode) (s : State) : (s.fail e).st = .idle := rfl
@[simp] theorem State.fail_reply (e : ErrCode) (s : State) : (s.fail e).reply = s.reply := rfl
@[simp] theorem State.fail_host (e : ErrCode) (s : State) : (s.fail e).host = s.host := rfl
@[simp] theorem State.fail_cancelAt (e : ErrCode) (s : State) : (s.fail e).cancelAt = s.cancelAt := rfl

/-! ### State.answer -/

@[simp] theorem State.answer_cfg (r : Reply) (s : State) : (s.answer r).cfg = s.cfg := rfl
@[simp] theorem State.answer_cmd (r : Reply) (s : State) : (s.answer r).cmd = s.cmd := rfl
@[simp] theorem State.answer_busy (r : Reply) (s : State) : (s.answer r).busy = s.busy := rfl
@[simp] theorem State.answer_done (r : Reply) (s : State) : (s.answer r).done = s.done := rfl
@[simp] theorem State.answer_exh (r : Reply) (s : State) : (s.answer r).exh = s.exh := rfl
@[simp] theorem State.answer_matched (r : Reply) (s : State) : (s.answer r).matched = s.matched := rfl
@[simp] theorem State.answer_err (r : Reply) (s : State) : (s.answer r).err = s.err := rfl
@[simp] theorem State.answer_ie (r : Reply) (s : State) : (s.answer r).ie = s.ie := rfl
@[simp] theorem State.answer_cancelReq (r : Reply) (s : State) : (s.answer r).cancelReq = s.cancelReq := rfl
@[simp] theorem State.answer_totalBits (r : Reply) (s : State) : (s.answer r).totalBits = s.totalBits := rfl
@[simp] theorem State.answer_setBits (r : Reply) (s : State) : (s.answer r).setBits = s.setBits := rfl
@[simp] theorem State.answer_fingerprint (r : Reply) (s : State) : (s.answer r).fingerprint = s.fingerprint := rfl
@[simp] theorem State.answer_acc (r : Reply) (s : State) : (s.answer r).acc = s.acc := rfl
@[simp] theorem State.answer_count (r : Reply) (s : State) : (s.answer r).count = s.count := rfl
@[simp] theorem State.answer_byteCount (r : Reply) (s : State) : (s.answer r).byteCount = s.byteCount := rfl
@[simp] theorem State.answer_drecLen (r : Reply) (s : State) : (s.answer r).drecLen = s.drecLen := rfl
@[simp] theorem State.answer_drec0 (r : Reply) (s : State) : (s.answer r).drec0 = s.drec0 := rfl
@[simp] theorem State.answer_drec1 (r : Reply) (s : State) : (s.answer r).drec1 = s.drec1 := rfl
@[simp] theorem State.answer_drec2 (r : Reply) (s : State) : (s.answer r).drec2 = s.drec2 := rfl
@[simp] theorem State.answer_cand (r : Reply) (s : State) : (s.answer r).cand = s.cand := rfl
@[simp] theorem State.answer_buf (r : Reply) (s : State) : (s.answer r).buf = s.buf := rfl
@[simp] theorem State.answer_st (r : Reply) (s : State) : (s.answer r).st = s.st := rfl
@[simp] theorem State.answer_reply (r : Reply) (s : State) : (s.answer r).reply = some r := rfl
@[simp] theorem State.answer_host (r : Reply) (s : State) : (s.answer r).host = s.host := rfl
@[simp] theorem State.answer_cancelAt (r : Reply) (s : State) : (s.answer r).cancelAt = s.cancelAt := rfl

/-! ### clearOutcome -/

@[simp] theorem clearOutcome_cfg (s : State) : (clearOutcome s).cfg = s.cfg := rfl
@[simp] theorem clearOutcome_cmd (s : State) : (clearOutcome s).cmd = s.cmd := rfl
@[simp] theorem clearOutcome_busy (s : State) : (clearOutcome s).busy = s.busy := rfl
@[simp] theorem clearOutcome_done (s : State) : (clearOutcome s).done = false := rfl
@[simp] theorem clearOutcome_exh (s : State) : (clearOutcome s).exh = false := rfl
@[simp] theorem clearOutcome_matched (s : State) : (clearOutcome s).matched = false := rfl
@[simp] theorem clearOutcome_err (s : State) : (clearOutcome s).err = .none := rfl
@[simp] theorem clearOutcome_ie (s : State) : (clearOutcome s).ie = s.ie := rfl
@[simp] theorem clearOutcome_cancelReq (s : State) : (clearOutcome s).cancelReq = false := rfl
@[simp] theorem clearOutcome_totalBits (s : State) : (clearOutcome s).totalBits = s.totalBits := rfl
@[simp] theorem clearOutcome_setBits (s : State) : (clearOutcome s).setBits = s.setBits := rfl
@[simp] theorem clearOutcome_fingerprint (s : State) : (clearOutcome s).fingerprint = s.fingerprint := rfl
@[simp] theorem clearOutcome_acc (s : State) : (clearOutcome s).acc = s.acc := rfl
@[simp] theorem clearOutcome_count (s : State) : (clearOutcome s).count = s.count := rfl
@[simp] theorem clearOutcome_byteCount (s : State) : (clearOutcome s).byteCount = s.byteCount := rfl
@[simp] theorem clearOutcome_drecLen (s : State) : (clearOutcome s).drecLen = s.drecLen := rfl
@[simp] theorem clearOutcome_drec0 (s : State) : (clearOutcome s).drec0 = s.drec0 := rfl
@[simp] theorem clearOutcome_drec1 (s : State) : (clearOutcome s).drec1 = s.drec1 := rfl
@[simp] theorem clearOutcome_drec2 (s : State) : (clearOutcome s).drec2 = s.drec2 := rfl
@[simp] theorem clearOutcome_cand (s : State) : (clearOutcome s).cand = s.cand := rfl
@[simp] theorem clearOutcome_buf (s : State) : (clearOutcome s).buf = s.buf := rfl
@[simp] theorem clearOutcome_st (s : State) : (clearOutcome s).st = s.st := rfl
@[simp] theorem clearOutcome_reply (s : State) : (clearOutcome s).reply = s.reply := rfl
@[simp] theorem clearOutcome_host (s : State) : (clearOutcome s).host = s.host := rfl
@[simp] theorem clearOutcome_cancelAt (s : State) : (clearOutcome s).cancelAt = s.cancelAt := rfl

/-! ### beginCommand -/

@[simp] theorem beginCommand_cfg (i : Instr) (s : State) : (beginCommand i s).cfg = s.cfg := rfl
@[simp] theorem beginCommand_cmd (i : Instr) (s : State) : (beginCommand i s).cmd = s.cmd := rfl
@[simp] theorem beginCommand_busy (i : Instr) (s : State) : (beginCommand i s).busy = true := rfl
@[simp] theorem beginCommand_done (i : Instr) (s : State) : (beginCommand i s).done = s.done := rfl
@[simp] theorem beginCommand_exh (i : Instr) (s : State) : (beginCommand i s).exh = s.exh := rfl
@[simp] theorem beginCommand_matched (i : Instr) (s : State) : (beginCommand i s).matched = s.matched := rfl
@[simp] theorem beginCommand_err (i : Instr) (s : State) : (beginCommand i s).err = s.err := rfl
@[simp] theorem beginCommand_ie (i : Instr) (s : State) : (beginCommand i s).ie = s.ie := rfl
@[simp] theorem beginCommand_cancelReq (i : Instr) (s : State) : (beginCommand i s).cancelReq = s.cancelReq := rfl
@[simp] theorem beginCommand_totalBits (i : Instr) (s : State) : (beginCommand i s).totalBits = s.totalBits := rfl
@[simp] theorem beginCommand_setBits (i : Instr) (s : State) : (beginCommand i s).setBits = s.setBits := rfl
@[simp] theorem beginCommand_fingerprint (i : Instr) (s : State) : (beginCommand i s).fingerprint = s.fingerprint := rfl
@[simp] theorem beginCommand_acc (i : Instr) (s : State) : (beginCommand i s).acc = s.acc := rfl
@[simp] theorem beginCommand_count (i : Instr) (s : State) : (beginCommand i s).count = if i = .decode then 0 else s.count := rfl
@[simp] theorem beginCommand_byteCount (i : Instr) (s : State) : (beginCommand i s).byteCount = s.byteCount := rfl
@[simp] theorem beginCommand_drecLen (i : Instr) (s : State) : (beginCommand i s).drecLen = s.drecLen := rfl
@[simp] theorem beginCommand_drec0 (i : Instr) (s : State) : (beginCommand i s).drec0 = s.drec0 := rfl
@[simp] theorem beginCommand_drec1 (i : Instr) (s : State) : (beginCommand i s).drec1 = s.drec1 := rfl
@[simp] theorem beginCommand_drec2 (i : Instr) (s : State) : (beginCommand i s).drec2 = s.drec2 := rfl
@[simp] theorem beginCommand_cand (i : Instr) (s : State) : (beginCommand i s).cand = s.cand := rfl
@[simp] theorem beginCommand_buf (i : Instr) (s : State) : (beginCommand i s).buf = s.buf := rfl
@[simp] theorem beginCommand_st (i : Instr) (s : State) : (beginCommand i s).st = entry i := rfl
@[simp] theorem beginCommand_reply (i : Instr) (s : State) : (beginCommand i s).reply = s.reply := rfl
@[simp] theorem beginCommand_host (i : Instr) (s : State) : (beginCommand i s).host = s.host := rfl
@[simp] theorem beginCommand_cancelAt (i : Instr) (s : State) : (beginCommand i s).cancelAt = s.cancelAt := rfl

/-! ### opHash -/

@[simp] theorem opHash_cfg (s : State) : (opHash s).cfg = s.cfg := rfl
@[simp] theorem opHash_cmd (s : State) : (opHash s).cmd = s.cmd := rfl
@[simp] theorem opHash_busy (s : State) : (opHash s).busy = s.busy := rfl
@[simp] theorem opHash_done (s : State) : (opHash s).done = s.done := rfl
@[simp] theorem opHash_exh (s : State) : (opHash s).exh = s.exh := rfl
@[simp] theorem opHash_matched (s : State) : (opHash s).matched = s.matched := rfl
@[simp] theorem opHash_err (s : State) : (opHash s).err = s.err := rfl
@[simp] theorem opHash_ie (s : State) : (opHash s).ie = s.ie := rfl
@[simp] theorem opHash_cancelReq (s : State) : (opHash s).cancelReq = s.cancelReq := rfl
@[simp] theorem opHash_totalBits (s : State) : (opHash s).totalBits = s.totalBits := rfl
@[simp] theorem opHash_setBits (s : State) : (opHash s).setBits = s.setBits := rfl
@[simp] theorem opHash_fingerprint (s : State) : (opHash s).fingerprint = s.fingerprint := rfl
@[simp] theorem opHash_acc (s : State) : (opHash s).acc = fp s.cand := rfl
@[simp] theorem opHash_count (s : State) : (opHash s).count = s.count := rfl
@[simp] theorem opHash_byteCount (s : State) : (opHash s).byteCount = s.byteCount := rfl
@[simp] theorem opHash_drecLen (s : State) : (opHash s).drecLen = s.drecLen := rfl
@[simp] theorem opHash_drec0 (s : State) : (opHash s).drec0 = s.drec0 := rfl
@[simp] theorem opHash_drec1 (s : State) : (opHash s).drec1 = s.drec1 := rfl
@[simp] theorem opHash_drec2 (s : State) : (opHash s).drec2 = s.drec2 := rfl
@[simp] theorem opHash_cand (s : State) : (opHash s).cand = s.cand := rfl
@[simp] theorem opHash_buf (s : State) : (opHash s).buf = s.buf := rfl
@[simp] theorem opHash_st (s : State) : (opHash s).st = s.st := rfl
@[simp] theorem opHash_reply (s : State) : (opHash s).reply = s.reply := rfl
@[simp] theorem opHash_host (s : State) : (opHash s).host = s.host := rfl
@[simp] theorem opHash_cancelAt (s : State) : (opHash s).cancelAt = s.cancelAt := rfl

/-! ### opPopcnt -/

@[simp] theorem opPopcnt_cfg (s : State) : (opPopcnt s).cfg = s.cfg := rfl
@[simp] theorem opPopcnt_cmd (s : State) : (opPopcnt s).cmd = s.cmd := rfl
@[simp] theorem opPopcnt_busy (s : State) : (opPopcnt s).busy = s.busy := rfl
@[simp] theorem opPopcnt_done (s : State) : (opPopcnt s).done = s.done := rfl
@[simp] theorem opPopcnt_exh (s : State) : (opPopcnt s).exh = s.exh := rfl
@[simp] theorem opPopcnt_matched (s : State) : (opPopcnt s).matched = s.matched := rfl
@[simp] theorem opPopcnt_err (s : State) : (opPopcnt s).err = s.err := rfl
@[simp] theorem opPopcnt_ie (s : State) : (opPopcnt s).ie = s.ie := rfl
@[simp] theorem opPopcnt_cancelReq (s : State) : (opPopcnt s).cancelReq = s.cancelReq := rfl
@[simp] theorem opPopcnt_totalBits (s : State) : (opPopcnt s).totalBits = s.totalBits := rfl
@[simp] theorem opPopcnt_setBits (s : State) : (opPopcnt s).setBits = BitVec.ofNat 64 (popcount s.cand) := rfl
@[simp] theorem opPopcnt_fingerprint (s : State) : (opPopcnt s).fingerprint = s.fingerprint := rfl
@[simp] theorem opPopcnt_acc (s : State) : (opPopcnt s).acc = s.acc := rfl
@[simp] theorem opPopcnt_count (s : State) : (opPopcnt s).count = s.count := rfl
@[simp] theorem opPopcnt_byteCount (s : State) : (opPopcnt s).byteCount = s.byteCount := rfl
@[simp] theorem opPopcnt_drecLen (s : State) : (opPopcnt s).drecLen = s.drecLen := rfl
@[simp] theorem opPopcnt_drec0 (s : State) : (opPopcnt s).drec0 = s.drec0 := rfl
@[simp] theorem opPopcnt_drec1 (s : State) : (opPopcnt s).drec1 = s.drec1 := rfl
@[simp] theorem opPopcnt_drec2 (s : State) : (opPopcnt s).drec2 = s.drec2 := rfl
@[simp] theorem opPopcnt_cand (s : State) : (opPopcnt s).cand = s.cand := rfl
@[simp] theorem opPopcnt_buf (s : State) : (opPopcnt s).buf = s.buf := rfl
@[simp] theorem opPopcnt_st (s : State) : (opPopcnt s).st = s.st := rfl
@[simp] theorem opPopcnt_reply (s : State) : (opPopcnt s).reply = s.reply := rfl
@[simp] theorem opPopcnt_host (s : State) : (opPopcnt s).host = s.host := rfl
@[simp] theorem opPopcnt_cancelAt (s : State) : (opPopcnt s).cancelAt = s.cancelAt := rfl

/-! ### opStdesc -/

@[simp] theorem opStdesc_cfg (s : State) : (opStdesc s).cfg = s.cfg := rfl
@[simp] theorem opStdesc_cmd (s : State) : (opStdesc s).cmd = s.cmd := rfl
@[simp] theorem opStdesc_busy (s : State) : (opStdesc s).busy = s.busy := rfl
@[simp] theorem opStdesc_done (s : State) : (opStdesc s).done = s.done := rfl
@[simp] theorem opStdesc_exh (s : State) : (opStdesc s).exh = s.exh := rfl
@[simp] theorem opStdesc_matched (s : State) : (opStdesc s).matched = s.matched := rfl
@[simp] theorem opStdesc_err (s : State) : (opStdesc s).err = s.err := rfl
@[simp] theorem opStdesc_ie (s : State) : (opStdesc s).ie = s.ie := rfl
@[simp] theorem opStdesc_cancelReq (s : State) : (opStdesc s).cancelReq = s.cancelReq := rfl
@[simp] theorem opStdesc_totalBits (s : State) : (opStdesc s).totalBits = s.totalBits := rfl
@[simp] theorem opStdesc_setBits (s : State) : (opStdesc s).setBits = s.setBits := rfl
@[simp] theorem opStdesc_fingerprint (s : State) : (opStdesc s).fingerprint = s.fingerprint := rfl
@[simp] theorem opStdesc_acc (s : State) : (opStdesc s).acc = s.acc := rfl
@[simp] theorem opStdesc_count (s : State) : (opStdesc s).count = s.count := rfl
@[simp] theorem opStdesc_byteCount (s : State) : (opStdesc s).byteCount = s.byteCount := rfl
@[simp] theorem opStdesc_drecLen (s : State) : (opStdesc s).drecLen = 24 := rfl
@[simp] theorem opStdesc_drec0 (s : State) : (opStdesc s).drec0 = s.totalBits := rfl
@[simp] theorem opStdesc_drec1 (s : State) : (opStdesc s).drec1 = s.setBits := rfl
@[simp] theorem opStdesc_drec2 (s : State) : (opStdesc s).drec2 = s.fingerprint := rfl
@[simp] theorem opStdesc_cand (s : State) : (opStdesc s).cand = s.cand := rfl
@[simp] theorem opStdesc_buf (s : State) : (opStdesc s).buf = s.buf := rfl
@[simp] theorem opStdesc_st (s : State) : (opStdesc s).st = s.st := rfl
@[simp] theorem opStdesc_reply (s : State) : (opStdesc s).reply = s.reply := rfl
@[simp] theorem opStdesc_host (s : State) : (opStdesc s).host = s.host := rfl
@[simp] theorem opStdesc_cancelAt (s : State) : (opStdesc s).cancelAt = s.cancelAt := rfl

/-! ### opSeed -/

@[simp] theorem opSeed_cfg (s : State) : (opSeed s).cfg = s.cfg := rfl
@[simp] theorem opSeed_cmd (s : State) : (opSeed s).cmd = s.cmd := rfl
@[simp] theorem opSeed_busy (s : State) : (opSeed s).busy = s.busy := rfl
@[simp] theorem opSeed_done (s : State) : (opSeed s).done = s.done := rfl
@[simp] theorem opSeed_exh (s : State) : (opSeed s).exh = s.exh := rfl
@[simp] theorem opSeed_matched (s : State) : (opSeed s).matched = s.matched := rfl
@[simp] theorem opSeed_err (s : State) : (opSeed s).err = s.err := rfl
@[simp] theorem opSeed_ie (s : State) : (opSeed s).ie = s.ie := rfl
@[simp] theorem opSeed_cancelReq (s : State) : (opSeed s).cancelReq = s.cancelReq := rfl
@[simp] theorem opSeed_totalBits (s : State) : (opSeed s).totalBits = s.totalBits := rfl
@[simp] theorem opSeed_setBits (s : State) : (opSeed s).setBits = s.setBits := rfl
@[simp] theorem opSeed_fingerprint (s : State) : (opSeed s).fingerprint = s.fingerprint := rfl
@[simp] theorem opSeed_acc (s : State) : (opSeed s).acc = s.acc := rfl
@[simp] theorem opSeed_count (s : State) : (opSeed s).count = s.count := rfl
@[simp] theorem opSeed_byteCount (s : State) : (opSeed s).byteCount = s.byteCount := rfl
@[simp] theorem opSeed_drecLen (s : State) : (opSeed s).drecLen = s.drecLen := rfl
@[simp] theorem opSeed_drec0 (s : State) : (opSeed s).drec0 = s.drec0 := rfl
@[simp] theorem opSeed_drec1 (s : State) : (opSeed s).drec1 = s.drec1 := rfl
@[simp] theorem opSeed_drec2 (s : State) : (opSeed s).drec2 = s.drec2 := rfl
@[simp] theorem opSeed_cand (s : State) : (opSeed s).cand = firstSeq s.totalBits.toNat s.setBits.toNat := rfl
@[simp] theorem opSeed_buf (s : State) : (opSeed s).buf = s.buf := rfl
@[simp] theorem opSeed_st (s : State) : (opSeed s).st = s.st := rfl
@[simp] theorem opSeed_reply (s : State) : (opSeed s).reply = s.reply := rfl
@[simp] theorem opSeed_host (s : State) : (opSeed s).host = s.host := rfl
@[simp] theorem opSeed_cancelAt (s : State) : (opSeed s).cancelAt = s.cancelAt := rfl

/-! ### opCount -/

@[simp] theorem opCount_cfg (s : State) : (opCount s).cfg = s.cfg := rfl
@[simp] theorem opCount_cmd (s : State) : (opCount s).cmd = s.cmd := rfl
@[simp] theorem opCount_busy (s : State) : (opCount s).busy = s.busy := rfl
@[simp] theorem opCount_done (s : State) : (opCount s).done = s.done := rfl
@[simp] theorem opCount_exh (s : State) : (opCount s).exh = s.exh := rfl
@[simp] theorem opCount_matched (s : State) : (opCount s).matched = s.matched := rfl
@[simp] theorem opCount_err (s : State) : (opCount s).err = s.err := rfl
@[simp] theorem opCount_ie (s : State) : (opCount s).ie = s.ie := rfl
@[simp] theorem opCount_cancelReq (s : State) : (opCount s).cancelReq = s.cancelReq := rfl
@[simp] theorem opCount_totalBits (s : State) : (opCount s).totalBits = s.totalBits := rfl
@[simp] theorem opCount_setBits (s : State) : (opCount s).setBits = s.setBits := rfl
@[simp] theorem opCount_fingerprint (s : State) : (opCount s).fingerprint = s.fingerprint := rfl
@[simp] theorem opCount_acc (s : State) : (opCount s).acc = s.acc := rfl
@[simp] theorem opCount_count (s : State) : (opCount s).count = s.count + 1 := rfl
@[simp] theorem opCount_byteCount (s : State) : (opCount s).byteCount = s.byteCount := rfl
@[simp] theorem opCount_drecLen (s : State) : (opCount s).drecLen = s.drecLen := rfl
@[simp] theorem opCount_drec0 (s : State) : (opCount s).drec0 = s.drec0 := rfl
@[simp] theorem opCount_drec1 (s : State) : (opCount s).drec1 = s.drec1 := rfl
@[simp] theorem opCount_drec2 (s : State) : (opCount s).drec2 = s.drec2 := rfl
@[simp] theorem opCount_cand (s : State) : (opCount s).cand = s.cand := rfl
@[simp] theorem opCount_buf (s : State) : (opCount s).buf = s.buf := rfl
@[simp] theorem opCount_st (s : State) : (opCount s).st = s.st := rfl
@[simp] theorem opCount_reply (s : State) : (opCount s).reply = s.reply := rfl
@[simp] theorem opCount_host (s : State) : (opCount s).host = s.host := rfl
@[simp] theorem opCount_cancelAt (s : State) : (opCount s).cancelAt = s.cancelAt := rfl

/-! ### takeLength -/

@[simp] theorem takeLength_cfg (s : State) : (takeLength s).cfg = s.cfg := rfl
@[simp] theorem takeLength_cmd (s : State) : (takeLength s).cmd = s.cmd := rfl
@[simp] theorem takeLength_busy (s : State) : (takeLength s).busy = s.busy := rfl
@[simp] theorem takeLength_done (s : State) : (takeLength s).done = s.done := rfl
@[simp] theorem takeLength_exh (s : State) : (takeLength s).exh = s.exh := rfl
@[simp] theorem takeLength_matched (s : State) : (takeLength s).matched = s.matched := rfl
@[simp] theorem takeLength_err (s : State) : (takeLength s).err = s.err := rfl
@[simp] theorem takeLength_ie (s : State) : (takeLength s).ie = s.ie := rfl
@[simp] theorem takeLength_cancelReq (s : State) : (takeLength s).cancelReq = s.cancelReq := rfl
@[simp] theorem takeLength_totalBits (s : State) : (takeLength s).totalBits = lenWord s := rfl
@[simp] theorem takeLength_setBits (s : State) : (takeLength s).setBits = s.setBits := rfl
@[simp] theorem takeLength_fingerprint (s : State) : (takeLength s).fingerprint = s.fingerprint := rfl
@[simp] theorem takeLength_acc (s : State) : (takeLength s).acc = s.acc := rfl
@[simp] theorem takeLength_count (s : State) : (takeLength s).count = s.count := rfl
@[simp] theorem takeLength_byteCount (s : State) : (takeLength s).byteCount = s.byteCount := rfl
@[simp] theorem takeLength_drecLen (s : State) : (takeLength s).drecLen = s.drecLen := rfl
@[simp] theorem takeLength_drec0 (s : State) : (takeLength s).drec0 = s.drec0 := rfl
@[simp] theorem takeLength_drec1 (s : State) : (takeLength s).drec1 = s.drec1 := rfl
@[simp] theorem takeLength_drec2 (s : State) : (takeLength s).drec2 = s.drec2 := rfl
@[simp] theorem takeLength_cand (s : State) : (takeLength s).cand = s.cand := rfl
@[simp] theorem takeLength_buf (s : State) : (takeLength s).buf = s.buf := rfl
@[simp] theorem takeLength_st (s : State) : (takeLength s).st = s.st := rfl
@[simp] theorem takeLength_reply (s : State) : (takeLength s).reply = s.reply := rfl
@[simp] theorem takeLength_host (s : State) : (takeLength s).host = s.host := rfl
@[simp] theorem takeLength_cancelAt (s : State) : (takeLength s).cancelAt = s.cancelAt := rfl

/-! ### takeFingerprint -/

@[simp] theorem takeFingerprint_cfg (s : State) : (takeFingerprint s).cfg = s.cfg := rfl
@[simp] theorem takeFingerprint_cmd (s : State) : (takeFingerprint s).cmd = s.cmd := rfl
@[simp] theorem takeFingerprint_busy (s : State) : (takeFingerprint s).busy = s.busy := rfl
@[simp] theorem takeFingerprint_done (s : State) : (takeFingerprint s).done = s.done := rfl
@[simp] theorem takeFingerprint_exh (s : State) : (takeFingerprint s).exh = s.exh := rfl
@[simp] theorem takeFingerprint_matched (s : State) : (takeFingerprint s).matched = s.matched := rfl
@[simp] theorem takeFingerprint_err (s : State) : (takeFingerprint s).err = s.err := rfl
@[simp] theorem takeFingerprint_ie (s : State) : (takeFingerprint s).ie = s.ie := rfl
@[simp] theorem takeFingerprint_cancelReq (s : State) : (takeFingerprint s).cancelReq = s.cancelReq := rfl
@[simp] theorem takeFingerprint_totalBits (s : State) : (takeFingerprint s).totalBits = s.totalBits := rfl
@[simp] theorem takeFingerprint_setBits (s : State) : (takeFingerprint s).setBits = s.setBits := rfl
@[simp] theorem takeFingerprint_fingerprint (s : State) : (takeFingerprint s).fingerprint = s.acc := rfl
@[simp] theorem takeFingerprint_acc (s : State) : (takeFingerprint s).acc = s.acc := rfl
@[simp] theorem takeFingerprint_count (s : State) : (takeFingerprint s).count = s.count := rfl
@[simp] theorem takeFingerprint_byteCount (s : State) : (takeFingerprint s).byteCount = s.byteCount := rfl
@[simp] theorem takeFingerprint_drecLen (s : State) : (takeFingerprint s).drecLen = s.drecLen := rfl
@[simp] theorem takeFingerprint_drec0 (s : State) : (takeFingerprint s).drec0 = s.drec0 := rfl
@[simp] theorem takeFingerprint_drec1 (s : State) : (takeFingerprint s).drec1 = s.drec1 := rfl
@[simp] theorem takeFingerprint_drec2 (s : State) : (takeFingerprint s).drec2 = s.drec2 := rfl
@[simp] theorem takeFingerprint_cand (s : State) : (takeFingerprint s).cand = s.cand := rfl
@[simp] theorem takeFingerprint_buf (s : State) : (takeFingerprint s).buf = s.buf := rfl
@[simp] theorem takeFingerprint_st (s : State) : (takeFingerprint s).st = s.st := rfl
@[simp] theorem takeFingerprint_reply (s : State) : (takeFingerprint s).reply = s.reply := rfl
@[simp] theorem takeFingerprint_host (s : State) : (takeFingerprint s).host = s.host := rfl
@[simp] theorem takeFingerprint_cancelAt (s : State) : (takeFingerprint s).cancelAt = s.cancelAt := rfl

/-! ### planCancel -/

@[simp] theorem planCancel_cfg (q : Option Nat) (s : State) : (planCancel q s).cfg = s.cfg := rfl
@[simp] theorem planCancel_cmd (q : Option Nat) (s : State) : (planCancel q s).cmd = s.cmd := rfl
@[simp] theorem planCancel_busy (q : Option Nat) (s : State) : (planCancel q s).busy = s.busy := rfl
@[simp] theorem planCancel_done (q : Option Nat) (s : State) : (planCancel q s).done = s.done := rfl
@[simp] theorem planCancel_exh (q : Option Nat) (s : State) : (planCancel q s).exh = s.exh := rfl
@[simp] theorem planCancel_matched (q : Option Nat) (s : State) : (planCancel q s).matched = s.matched := rfl
@[simp] theorem planCancel_err (q : Option Nat) (s : State) : (planCancel q s).err = s.err := rfl
@[simp] theorem planCancel_ie (q : Option Nat) (s : State) : (planCancel q s).ie = s.ie := rfl
@[simp] theorem planCancel_cancelReq (q : Option Nat) (s : State) : (planCancel q s).cancelReq = s.cancelReq := rfl
@[simp] theorem planCancel_totalBits (q : Option Nat) (s : State) : (planCancel q s).totalBits = s.totalBits := rfl
@[simp] theorem planCancel_setBits (q : Option Nat) (s : State) : (planCancel q s).setBits = s.setBits := rfl
@[simp] theorem planCancel_fingerprint (q : Option Nat) (s : State) : (planCancel q s).fingerprint = s.fingerprint := rfl
@[simp] theorem planCancel_acc (q : Option Nat) (s : State) : (planCancel q s).acc = s.acc := rfl
@[simp] theorem planCancel_count (q : Option Nat) (s : State) : (planCancel q s).count = s.count := rfl
@[simp] theorem planCancel_byteCount (q : Option Nat) (s : State) : (planCancel q s).byteCount = s.byteCount := rfl
@[simp] theorem planCancel_drecLen (q : Option Nat) (s : State) : (planCancel q s).drecLen = s.drecLen := rfl
@[simp] theorem planCancel_drec0 (q : Option Nat) (s : State) : (planCancel q s).drec0 = s.drec0 := rfl
@[simp] theorem planCancel_drec1 (q : Option Nat) (s : State) : (planCancel q s).drec1 = s.drec1 := rfl
@[simp] theorem planCancel_drec2 (q : Option Nat) (s : State) : (planCancel q s).drec2 = s.drec2 := rfl
@[simp] theorem planCancel_cand (q : Option Nat) (s : State) : (planCancel q s).cand = s.cand := rfl
@[simp] theorem planCancel_buf (q : Option Nat) (s : State) : (planCancel q s).buf = s.buf := rfl
@[simp] theorem planCancel_st (q : Option Nat) (s : State) : (planCancel q s).st = s.st := rfl
@[simp] theorem planCancel_reply (q : Option Nat) (s : State) : (planCancel q s).reply = s.reply := rfl
@[simp] theorem planCancel_host (q : Option Nat) (s : State) : (planCancel q s).host = s.host := rfl
@[simp] theorem planCancel_cancelAt (q : Option Nat) (s : State) : (planCancel q s).cancelAt = if s.busy then s.cancelAt else q := rfl

end Sys2Proof.Machine
end

