-- ==== Sys2Proof/Laws/Memory.lean ====
section
/-! SUPPORT. BUF as a list of cells: every operation keeps the canonical form and the bounds of BUF, and a read after
a write sees exactly that write. -/

namespace Sys2Proof.Machine

/-! ### The canonical form -/

theorem cellsFrom_mono {m : List Host.Cell} {n k : Nat} (hk : k ≤ n) (h : cellsFrom n m = true) :
    cellsFrom k m = true := by
  cases m with
  | nil => rfl
  | cons c rest =>
    simp only [cellsFrom, Bool.and_eq_true, decide_eq_true_eq] at h ⊢
    exact ⟨⟨by omega, h.1.2⟩, h.2⟩

theorem bufRead_below {m : List Host.Cell} {n a : Nat} (h : cellsFrom n m = true) (ha : a < n) :
    bufRead m a = unlistedByte := by
  induction m generalizing n with
  | nil => rfl
  | cons c rest ih =>
    obtain ⟨b, w⟩ := c
    simp only [cellsFrom, Bool.and_eq_true, decide_eq_true_eq] at h
    have hb : b ≠ a := by omega
    simpa [bufRead, hb] using ih h.2 (by omega)

/-- A write keeps the cells rising from any bound at or below the address written. -/
theorem bufWrite_cellsFrom {m : List Host.Cell} {n a : Nat} (v : Byte) (h : cellsFrom n m = true) (ha : n ≤ a) :
    cellsFrom n (bufWrite m a v) = true := by
  induction m generalizing n with
  | nil => by_cases hv : v = unlistedByte <;> simp [bufWrite, cellsFrom, hv, ha]
  | cons c rest ih =>
    obtain ⟨b, w⟩ := c
    simp only [cellsFrom, Bool.and_eq_true, decide_eq_true_eq] at h
    obtain ⟨⟨hnb, hw⟩, hrest⟩ := h
    simp only [bufWrite]
    rcases Nat.lt_trichotomy a b with hab | hab | hab
    · by_cases hv : v = unlistedByte
      · simp [hab, hv, cellsFrom, hnb, hw, hrest]
      · have hb : a + 1 ≤ b := by omega
        simp [hab, hv, cellsFrom, ha, hb, hw, hrest]
    · subst hab
      by_cases hv : v = unlistedByte
      · simpa [hv] using cellsFrom_mono (by omega) hrest
      · simp [hv, cellsFrom, ha, hrest]
    · have h1 : ¬ a < b := by omega
      have h2 : a ≠ b := by omega
      simp only [h1, h2, if_false, cellsFrom, Bool.and_eq_true, decide_eq_true_eq]
      exact ⟨⟨hnb, hw⟩, ih hrest (by omega)⟩

theorem bufWrite_wf {m : List Host.Cell} (a : Nat) (v : Byte) (h : bufWf m = true) :
    bufWf (bufWrite m a v) = true :=
  bufWrite_cellsFrom v h (Nat.zero_le a)

theorem bufWriteBytes_wf {m : List Host.Cell} (a : Nat) (bytes : List Byte) (h : bufWf m = true) :
    bufWf (bufWriteBytes m a bytes) = true := by
  induction bytes generalizing m a with
  | nil => exact h
  | cons v rest ih => exact ih (a + 1) (bufWrite_wf a v h)

/-! ### The bounds of BUF -/

theorem mem_bufWrite {m : List Host.Cell} {a : Nat} {v : Byte} {c : Host.Cell} (h : c ∈ bufWrite m a v) :
    c ∈ m ∨ c = (a, v) := by
  induction m with
  | nil =>
    simp only [bufWrite] at h
    split_ifs at h <;> simp_all
  | cons d rest ih =>
    obtain ⟨b, w⟩ := d
    simp only [bufWrite] at h
    split_ifs at h <;> simp only [List.mem_cons] at h ⊢ <;> tauto

theorem bufWithin_iff {cfg : Config} {m : List Host.Cell} :
    bufWithin cfg m = true ↔ ∀ c ∈ m, c.1 < bufBytes cfg := by
  simp [bufWithin]

theorem bufWrite_within {cfg : Config} {m : List Host.Cell} {a : Nat} (v : Byte)
    (h : bufWithin cfg m = true) (ha : a < bufBytes cfg) : bufWithin cfg (bufWrite m a v) = true := by
  rw [bufWithin_iff] at h ⊢
  intro c hc
  rcases mem_bufWrite hc with hc | rfl
  · exact h c hc
  · exact ha

theorem bufWriteBytes_within {cfg : Config} {m : List Host.Cell} {a : Nat} {bytes : List Byte}
    (h : bufWithin cfg m = true) (ha : a + bytes.length ≤ bufBytes cfg) :
    bufWithin cfg (bufWriteBytes m a bytes) = true := by
  induction bytes generalizing m a with
  | nil => exact h
  | cons v rest ih =>
    simp only [List.length_cons] at ha
    exact ih (bufWrite_within v h (by omega)) (by omega)

theorem bufOfCells_wf (cfg : Config) (cells : List Host.Cell) : bufWf (bufOfCells cfg cells) = true := by
  suffices h : ∀ (l m : List Host.Cell), bufWf m = true → bufWf (l.foldl (fun m c => bufWrite m c.1 c.2) m) = true from
    h _ [] rfl
  intro l
  induction l with
  | nil => exact fun m h => h
  | cons c rest ih => exact fun m h => ih _ (bufWrite_wf c.1 c.2 h)

theorem bufOfCells_within (cfg : Config) (cells : List Host.Cell) :
    bufWithin cfg (bufOfCells cfg cells) = true := by
  suffices h : ∀ (l m : List Host.Cell), (∀ c ∈ l, c.1 < bufBytes cfg) → bufWithin cfg m = true →
      bufWithin cfg (l.foldl (fun m c => bufWrite m c.1 c.2) m) = true from
    h _ [] (fun c hc => by simpa using (List.mem_filter.mp hc).2) rfl
  intro l
  induction l with
  | nil => exact fun m _ h => h
  | cons c rest ih =>
    intro m hl h
    simp only [List.forall_mem_cons] at hl
    exact ih _ hl.2 (bufWrite_within c.2 h hl.1)

theorem reset_buf_wf : bufWf State.reset.buf = true := rfl

/-! ### Reads after writes -/

/-- A write leaves every other byte alone, in canonical form or not. -/
theorem bufRead_bufWrite_other {m : List Host.Cell} {a b : Nat} (v : Byte) (hab : a ≠ b) :
    bufRead (bufWrite m a v) b = bufRead m b := by
  induction m with
  | nil => by_cases hv : v = unlistedByte <;> simp [bufWrite, bufRead, hv, hab]
  | cons c rest ih =>
    obtain ⟨d, w⟩ := c
    simp only [bufWrite]
    by_cases h1 : a < d
    · by_cases hv : v = unlistedByte <;> simp [h1, hv, bufRead, hab]
    · by_cases h2 : a = d
      · subst h2
        by_cases hv : v = unlistedByte <;> simp [hv, bufRead, hab]
      · simp [h1, h2, bufRead, ih]

/-- A write is read back, on cells in canonical form. -/
theorem bufRead_bufWrite_same {m : List Host.Cell} {a : Nat} (v : Byte) (h : bufWf m = true) :
    bufRead (bufWrite m a v) a = v := by
  suffices key : ∀ (n : Nat), cellsFrom n m = true → bufRead (bufWrite m a v) a = v from key 0 h
  clear h
  induction m with
  | nil => intro n _; by_cases hv : v = unlistedByte <;> simp [bufWrite, bufRead, hv]
  | cons c rest ih =>
    intro n h
    obtain ⟨d, w⟩ := c
    simp only [cellsFrom, Bool.and_eq_true, decide_eq_true_eq] at h
    simp only [bufWrite]
    rcases Nat.lt_trichotomy a d with had | had | had
    · by_cases hv : v = unlistedByte
      · have hd : d ≠ a := by omega
        simp [had, hv, bufRead, hd, bufRead_below h.2 (show a < d + 1 by omega)]
      · simp [had, hv, bufRead]
    · subst had
      by_cases hv : v = unlistedByte
      · simp [hv, bufRead_below h.2 (Nat.lt_succ_self a)]
      · simp [hv, bufRead]
    · have h1 : ¬ a < d := by omega
      have h2 : a ≠ d := by omega
      have h3 : d ≠ a := by omega
      simp [h1, h2, h3, bufRead, ih _ h.2]

/-- Bytes outside the written range are left alone. -/
theorem bufRead_bufWriteBytes_outside {m : List Host.Cell} {a b : Nat} {bytes : List Byte}
    (h : b < a ∨ a + bytes.length ≤ b) : bufRead (bufWriteBytes m a bytes) b = bufRead m b := by
  induction bytes generalizing m a with
  | nil => rfl
  | cons v rest ih =>
    simp only [List.length_cons] at h
    rw [bufWriteBytes, ih (by omega), bufRead_bufWrite_other v (by omega)]

/-- Byte `j` of the written range is byte `j` of the list. -/
theorem bufRead_bufWriteBytes_inside {m : List Host.Cell} {a j : Nat} {bytes : List Byte} (hm : bufWf m = true)
    (hj : j < bytes.length) : bufRead (bufWriteBytes m a bytes) (a + j) = bytes[j] := by
  induction bytes generalizing m a j with
  | nil => simp at hj
  | cons v rest ih =>
    rw [bufWriteBytes]
    cases j with
    | zero => simpa [bufRead_bufWriteBytes_outside (a := a + 1) (Or.inl (Nat.lt_succ_self a))] using
        bufRead_bufWrite_same v hm
    | succ j =>
      simp only [List.length_cons] at hj
      have := ih (m := bufWrite m a v) (a := a + 1) (j := j) (bufWrite_wf a v hm) (by omega)
      simpa [Nat.add_assoc, Nat.add_comm 1 j] using this

@[simp] theorem bufReadBytes_length (m : List Host.Cell) (a n : Nat) : (bufReadBytes m a n).length = n := by
  simp [bufReadBytes]

/-- Reading back a whole written range gives the list written. -/
theorem bufReadBytes_bufWriteBytes {m : List Host.Cell} (a : Nat) (bytes : List Byte) (hm : bufWf m = true) :
    bufReadBytes (bufWriteBytes m a bytes) a bytes.length = bytes := by
  apply List.ext_getElem
  · simp
  · intro j h1 h2
    simpa [bufReadBytes] using bufRead_bufWriteBytes_inside hm h2

end Sys2Proof.Machine
end

