-- ==== Sys2Proof/Laws/Commands.lean ====
section
/-! SUPPORT. What issue, the cancel write, a whole command and each datapath operation can do, said once. -/

namespace Sys2Proof.Machine

/-! ### Issue and the cancel write -/

/-- Issue of a command's own word. -/
theorem issue_encode (i : Instr) (s : State) :
    issue (encode i) s = beginCommand i { clearOutcome s with cmd := encode i } := by
  cases i <;> rfl

/-- The planned cancel write sets CANCEL_REQ and gets OKAY; it keeps IE and DONE. -/
theorem cancelWrite_eq (s : State) : cancelWrite s = { s with cancelReq := true, reply := some .okayWrite } := by
  cases s with
  | mk _ _ _ _ _ _ _ ie => cases ie <;> simp [cancelWrite, cancelWord, writeCtrl, State.answer]

theorem cancelArrives_never {s : State} (h : s.cancelAt = none) : cancelArrives s = s := by
  simp [cancelArrives, h]

/-- The cancel write lands before this sample when at most one comparison was left to wait. -/
theorem cancelArrives_now {s : State} {q : Nat} (h : s.cancelAt = some q) (hq : q ≤ 1) :
    cancelArrives s = { s with cancelReq := true, reply := some .okayWrite, cancelAt := none } := by
  simp [cancelArrives, h, hq, cancelWrite_eq]

theorem cancelArrives_later {s : State} {q : Nat} (h : s.cancelAt = some q) (hq : 1 < q) :
    cancelArrives s = { s with cancelAt := some (q - 1) } := by
  simp [cancelArrives, h, Nat.not_le.mpr hq]

/-- A cancel write that lands after the end changes CANCEL_REQ, its own plan and the port's answer. -/
theorem cancelLands_eq (s : State) :
    cancelLands s =
      { s with cancelReq := s.cancelReq || s.cancelAt.isSome
               cancelAt := none
               reply := s.cancelAt.elim s.reply fun _ => some .okayWrite } := by
  cases s with
  | mk _ _ _ _ _ _ _ _ _ _ _ _ _ _ _ _ _ _ _ _ _ _ _ _ cancelAt =>
    cases cancelAt <;> simp [cancelLands, cancelWrite_eq]

/-- A command that the port accepted and that ended by `finish`, with its planned cancel write landed. -/
theorem finish_settles {t : State} (h : t.reply = some .okayWrite) :
    cancelLands t.finish =
      { t with done := true, busy := false, st := .idle
               cancelReq := t.cancelReq || t.cancelAt.isSome, cancelAt := none } := by
  rw [cancelLands_eq]
  cases t with
  | mk _ _ _ _ _ _ _ _ _ _ _ _ _ _ _ _ _ _ _ _ _ _ reply _ cancelAt =>
    cases cancelAt <;> simp_all [State.finish]

/-- A command that the port accepted and that ended by `fail`, with its planned cancel write landed. -/
theorem fail_settles {t : State} (e : ErrCode) (h : t.reply = some .okayWrite) :
    cancelLands (t.fail e) =
      { t with err := e, done := true, busy := false, st := .idle
               cancelReq := t.cancelReq || t.cancelAt.isSome, cancelAt := none } := by
  rw [cancelLands_eq]
  cases t with
  | mk _ _ _ _ _ _ _ _ _ _ _ _ _ _ _ _ _ _ _ _ _ _ reply _ cancelAt =>
    cases cancelAt <;> simp_all [State.fail]

/-! ### A whole command -/

/-- The state a command's body starts in: its word accepted, the outcome cleared, the engine started. -/
theorem accepted_eq (i : Instr) (s : State) :
    (issue (encode i) s).answer .okayWrite =
      { s with cmd := encode i, done := false, exh := false, matched := false, err := .none, cancelReq := false
               count := if i = .decode then 0 else s.count, busy := true, st := entry i
               reply := some .okayWrite } := by
  rw [issue_encode]; rfl

theorem runCommand_busy (i : Instr) (body : State → State) {s : State} (h : s.busy = true) :
    runCommand i body s = .next (s.answer .refused) := by
  simp [runCommand, h]

theorem runCommand_idle (i : Instr) (body : State → State) {s : State} (h : s.busy = false) :
    runCommand i body s =
      .next (cancelLands (body { s with
        cmd := encode i, done := false, exh := false, matched := false, err := .none, cancelReq := false
        count := if i = .decode then 0 else s.count, busy := true, st := entry i
        reply := some .okayWrite })) := by
  simp only [runCommand, h, Bool.false_eq_true, if_false, accepted_eq]

/-- Every command answers a next state: the refused write, or its body's. -/
theorem runCommand_next (i : Instr) (body : State → State) (s : State) : ∃ t, runCommand i body s = .next t := by
  unfold runCommand; split <;> exact ⟨_, rfl⟩

/-! ### The datapath operations -/

theorem opPack_full {s : State} (h : bufBytes s.cfg < s.byteCount.toNat) : opPack s = .error .capacity := by
  simp [opPack, h]

theorem opPack_fits {s : State} (h : s.byteCount.toNat ≤ bufBytes s.cfg) :
    opPack s = .ok { s with cand := packBytes (inputBytes s) } := by
  simp [opPack, Nat.not_lt.mpr h]

theorem opUnpack_odd {s : State} (h : s.len % 8 ≠ 0) : opUnpack s = .error .length := by
  simp [opUnpack, h]

theorem opUnpack_bytes {s : State} (h : s.len % 8 = 0) :
    opUnpack s = .ok { s with buf := bufWriteBytes s.buf 0 (unpackBits s.cand)
                              byteCount := BitVec.ofNat 64 (s.len / 8) } := by
  simp [opUnpack, h]

theorem opLddesc_wrongSize {s : State} (h : s.drecLen ≠ 24) : opLddesc s = .error .format :=
  if_neg h

theorem opLddesc_record {s : State} (h : s.drecLen = 24) :
    opLddesc s = .ok { s with totalBits := s.drec0, setBits := s.drec1, fingerprint := s.drec2 } :=
  if_pos h

theorem checkParams_param {s : State} (h : s.totalBits.toNat < s.setBits.toNat) : checkParams s = .error .param := by
  simp [checkParams, h]

theorem checkParams_capacity {s : State} (h : s.setBits.toNat ≤ s.totalBits.toNat)
    (h2 : s.cfg.nmax < s.totalBits.toNat) : checkParams s = .error .capacity := by
  simp [checkParams, Nat.not_lt.mpr h, h2]

theorem checkParams_ok {s : State} (h : s.setBits.toNat ≤ s.totalBits.toNat)
    (h2 : s.totalBits.toNat ≤ s.cfg.nmax) : checkParams s = .ok s := by
  simp [checkParams, Nat.not_lt.mpr h, Nat.not_lt.mpr h2]

theorem conclude_ok (s t : State) : s.conclude (.ok t) = t.finish := rfl

theorem conclude_error (s : State) (e : ErrCode) : s.conclude (.error e) = s.fail e := rfl

/-! ### ENCODE as a whole (R136) -/

theorem encodeBody_full {s : State} (h : bufBytes s.cfg < s.byteCount.toNat) : encodeBody s = s.fail .capacity := by
  rw [encodeBody, opPack_full h]; rfl

theorem encodeBody_fits {s : State} (h : s.byteCount.toNat ≤ bufBytes s.cfg) :
    encodeBody s =
      State.finish { s with
        cand := packBytes (inputBytes s)
        totalBits := BitVec.ofNat 64 (packBytes (inputBytes s)).length
        setBits := BitVec.ofNat 64 (popcount (packBytes (inputBytes s)))
        acc := fp (packBytes (inputBytes s)), fingerprint := fp (packBytes (inputBytes s))
        drec0 := BitVec.ofNat 64 (packBytes (inputBytes s)).length
        drec1 := BitVec.ofNat 64 (popcount (packBytes (inputBytes s)))
        drec2 := fp (packBytes (inputBytes s)), drecLen := 24 } := by
  rw [encodeBody, opPack_fits h]; rfl

end Sys2Proof.Machine
end

