-- ==== Sys2Proof/Laws/Bits.lean ====
section
/-! SUPPORT. Bits of numbers built from bit sequences and from bytes, and of the sequences packed from bytes. -/

namespace Sys2Proof.Machine

theorem bitsValue_lt (c : BitSeq) : bitsValue c < 2 ^ c.length := by
  induction c with
  | nil => simp [bitsValue]
  | cons b rest ih =>
    have hb : b.toNat ≤ 1 := Bool.toNat_le b
    simp only [bitsValue, List.length_cons, Nat.pow_succ]
    omega

/-- Bit `i` of the number is element `i` of the sequence, 0 beyond its end. -/
theorem bitsValue_testBit (c : BitSeq) (i : Nat) : (bitsValue c).testBit i = c.getD i false := by
  induction c generalizing i with
  | nil => simp [bitsValue]
  | cons b rest ih =>
    cases i with
    | zero => cases b <;> simp [bitsValue, Nat.testBit_zero]
    | succ i =>
      have h : (b.toNat + 2 * bitsValue rest) / 2 = bitsValue rest := by
        have hb : b.toNat ≤ 1 := Bool.toNat_le b
        omega
      rw [bitsValue, Nat.testBit_add_one, h, ih]
      rfl

/-- Bit `8j + i` of the number built from bytes is bit `i` of byte `j`. -/
theorem bytesValue_testBit (bytes : List Byte) (j i : Nat) (hi : i < 8) :
    (bytesValue bytes).testBit (8 * j + i) = (bytes.getD j 0).getLsbD i := by
  induction bytes generalizing j with
  | nil => simp [bytesValue]
  | cons b rest ih =>
    have hb : b.toNat < 2 ^ 8 := b.isLt
    rw [bytesValue, Nat.add_comm b.toNat, Nat.testBit_two_pow_mul_add _ hb]
    cases j with
    | zero => simp [hi, BitVec.getLsbD]
    | succ j =>
      have h1 : ¬ 8 * (j + 1) + i < 8 := by omega
      have h2 : 8 * (j + 1) + i - 8 = 8 * j + i := by omega
      simp [h1, h2, ih]

theorem packByte_length (b : Byte) : (packByte b).length = 8 := by simp [packByte]

theorem packByte_getD (b : Byte) (i : Nat) (hi : i < 8) : (packByte b).getD i false = b.getLsbD i := by
  simp [packByte, List.getD, hi]

theorem packBytes_nil : packBytes [] = [] := rfl

theorem packBytes_cons (b : Byte) (rest : List Byte) : packBytes (b :: rest) = packByte b ++ packBytes rest := rfl

/-- The sequence packed from `m` bytes has `8m` bits (R112). -/
theorem packBytes_length (bytes : List Byte) : (packBytes bytes).length = 8 * bytes.length := by
  induction bytes with
  | nil => rfl
  | cons b rest ih => rw [packBytes_cons, List.length_append, packByte_length, ih, List.length_cons]; omega

@[simp] theorem unpackBits_length (c : BitSeq) : (unpackBits c).length = c.length / 8 := by simp [unpackBits]

/-- Bit `i` of byte `j` of an unpacked sequence is its element `8j + i`, 0 beyond the end. -/
theorem unpackByte_getLsbD (c : BitSeq) (j i : Nat) (hi : i < 8) :
    (unpackByte c j).getLsbD i = c.getD (8 * j + i) false := by
  rw [unpackByte, BitVec.getLsbD_ofNat, bitsValue_testBit]
  simp [hi, List.getD, List.getElem?_drop]

end Sys2Proof.Machine
end

