-- ==== Sys2Proof/Laws/Decoder.lean ====
section
/-! SUPPORT. One turn of DECODE's enumeration loop in each of its four cases, and what the cancel write leaves alone. -/

namespace Sys2Proof.Machine

/-- The state in which one comparison has been made. -/
theorem opCount_opHash (s : State) : opCount (opHash s) = { s with acc := fp s.cand, count := s.count + 1 } := rfl

/-- A planned cancel write touches CANCEL_REQ, its own plan and the port's answer. -/
theorem cancelArrives_eq (s : State) :
    cancelArrives s = { s with
      cancelReq := s.cancelReq || s.cancelAt.any fun q => decide (q ≤ 1)
      cancelAt := s.cancelAt.bind fun q => if q ≤ 1 then none else some (q - 1)
      reply := if s.cancelAt.any fun q => decide (q ≤ 1) then some .okayWrite else s.reply } := by
  cases s with
  | mk _ _ _ _ _ _ _ _ _ _ _ _ _ _ _ _ _ _ _ _ _ _ _ _ cancelAt =>
    cases cancelAt with
    | none => simp [cancelArrives]
    | some q => by_cases hq : q ≤ 1 <;> simp [cancelArrives, cancelWrite_eq, hq]

/-- The comparison matches: the loop ends with the output (R167, R169). -/
theorem decodeLoop_match {s : State} (n : Nat) (h : fp s.cand = s.fingerprint) :
    decodeLoop (n + 1) s =
      State.conclude { s with acc := fp s.cand, count := s.count + 1, matched := true }
        (opUnpack { s with acc := fp s.cand, count := s.count + 1, matched := true }) := by
  rw [decodeLoop, opCount_opHash]
  exact if_pos h

/-- No match, and the cancel request is seen (R168). -/
theorem decodeLoop_cancelled {s : State} (n : Nat) (h : fp s.cand ≠ s.fingerprint)
    (hc : (cancelArrives { s with acc := fp s.cand, count := s.count + 1 }).cancelReq = true) :
    decodeLoop (n + 1) s =
      State.fail .cancelled (cancelArrives { s with acc := fp s.cand, count := s.count + 1 }) := by
  rw [decodeLoop, opCount_opHash]
  exact (if_neg h).trans (if_pos hc)

/-- No match, no cancel request, and no candidate left (R168). -/
theorem decodeLoop_exhausted {s : State} (n : Nat) (h : fp s.cand ≠ s.fingerprint)
    (hc : (cancelArrives { s with acc := fp s.cand, count := s.count + 1 }).cancelReq = false)
    (hn : nextSeq s.cand = none) :
    decodeLoop (n + 1) s =
      State.fail .notFound
        { cancelArrives { s with acc := fp s.cand, count := s.count + 1 } with exh := true } := by
  rw [decodeLoop, opCount_opHash]
  refine (if_neg h).trans ((if_neg (ne_of_eq_of_ne hc Bool.false_ne_true)).trans ?_)
  have hcand : (cancelArrives { s with acc := fp s.cand, count := s.count + 1 }).cand = s.cand := by
    rw [cancelArrives_eq]
  simp only [hcand, hn]

/-- No match, no cancel request: the next candidate (R168). -/
theorem decodeLoop_advance {s : State} {c : BitSeq} (n : Nat) (h : fp s.cand ≠ s.fingerprint)
    (hc : (cancelArrives { s with acc := fp s.cand, count := s.count + 1 }).cancelReq = false)
    (hn : nextSeq s.cand = some c) :
    decodeLoop (n + 1) s =
      decodeLoop n { cancelArrives { s with acc := fp s.cand, count := s.count + 1 } with cand := c } := by
  rw [decodeLoop, opCount_opHash]
  refine (if_neg h).trans ((if_neg (ne_of_eq_of_ne hc Bool.false_ne_true)).trans ?_)
  have hcand : (cancelArrives { s with acc := fp s.cand, count := s.count + 1 }).cand = s.cand := by
    rw [cancelArrives_eq]
  simp only [hcand, hn]

/-- The four cases of one turn, for an induction on the loop. -/
theorem decodeLoop_cases (n : Nat) (s : State) :
    (fp s.cand = s.fingerprint ∧ decodeLoop (n + 1) s =
      State.conclude { s with acc := fp s.cand, count := s.count + 1, matched := true }
        (opUnpack { s with acc := fp s.cand, count := s.count + 1, matched := true })) ∨
    (fp s.cand ≠ s.fingerprint ∧ decodeLoop (n + 1) s =
      State.fail .cancelled (cancelArrives { s with acc := fp s.cand, count := s.count + 1 })) ∨
    (fp s.cand ≠ s.fingerprint ∧ nextSeq s.cand = none ∧ decodeLoop (n + 1) s =
      State.fail .notFound
        { cancelArrives { s with acc := fp s.cand, count := s.count + 1 } with exh := true }) ∨
    (∃ c, fp s.cand ≠ s.fingerprint ∧ nextSeq s.cand = some c ∧
      (cancelArrives { s with acc := fp s.cand, count := s.count + 1 }).cancelReq = false ∧
      decodeLoop (n + 1) s =
        decodeLoop n { cancelArrives { s with acc := fp s.cand, count := s.count + 1 } with cand := c }) := by
  by_cases h : fp s.cand = s.fingerprint
  · exact Or.inl ⟨h, decodeLoop_match n h⟩
  · refine Or.inr ?_
    cases hc : (cancelArrives { s with acc := fp s.cand, count := s.count + 1 }).cancelReq with
    | true => exact Or.inl ⟨h, decodeLoop_cancelled n h hc⟩
    | false =>
      refine Or.inr ?_
      cases hn : nextSeq s.cand with
      | none => exact Or.inl ⟨h, rfl, decodeLoop_exhausted n h hc hn⟩
      | some c => exact Or.inr ⟨c, h, rfl, rfl, decodeLoop_advance n h hc hn⟩

/-! ### DECODE before its loop (R164, R165) -/

theorem decodeBody_format {s : State} (h : s.drecLen ≠ 24) : decodeBody s = s.fail .format := by
  rw [decodeBody, opLddesc_wrongSize h]

/-- With a record of the right size, the checks are made on what the record says. -/
theorem decodeBody_record {s : State} (h : s.drecLen = 24) :
    decodeBody s =
      if s.drec0.toNat < s.drec1.toNat then
        State.fail .param { s with totalBits := s.drec0, setBits := s.drec1, fingerprint := s.drec2 }
      else if s.cfg.nmax < s.drec0.toNat then
        State.fail .capacity { s with totalBits := s.drec0, setBits := s.drec1, fingerprint := s.drec2 }
      else
        decodeLoop (2 ^ (firstSeq s.drec0.toNat s.drec1.toNat).length)
          { s with totalBits := s.drec0, setBits := s.drec1, fingerprint := s.drec2
                   cand := firstSeq s.drec0.toNat s.drec1.toNat } := by
  rw [decodeBody, opLddesc_record h]
  by_cases h1 : s.drec0.toNat < s.drec1.toNat
  · rw [if_pos h1]
    simp only [checkParams_param (s := { s with totalBits := s.drec0, setBits := s.drec1, fingerprint := s.drec2 }) h1]
  · rw [if_neg h1]
    by_cases h2 : s.cfg.nmax < s.drec0.toNat
    · rw [if_pos h2]
      simp only [checkParams_capacity
        (s := { s with totalBits := s.drec0, setBits := s.drec1, fingerprint := s.drec2 }) (Nat.not_lt.mp h1) h2]
    · rw [if_neg h2]
      simp only [checkParams_ok
        (s := { s with totalBits := s.drec0, setBits := s.drec1, fingerprint := s.drec2 }) (Nat.not_lt.mp h1)
        (Nat.not_lt.mp h2)]
      rfl

theorem firstSeq_length {n k : Nat} (h : k ≤ n) : (firstSeq n k).length = n := by
  simp [firstSeq, Nat.sub_add_cancel h]

end Sys2Proof.Machine
end

