-- ==== Sys2Proof/Laws/Engine.lean ====
section
/-! SUPPORT. The engine's turn, in D_ADV and elsewhere, and the one-step outcomes of the states that branch. -/

namespace Sys2Proof.Machine

/-- Outside D_ADV the engine's turn is the FSM step. -/
theorem engineMove_other {s : State} (h : s.st ≠ .dAdv) : engineMove s = fsmStep s := if_neg h

/-- In D_ADV a cancel write whose time has come lands first. -/
theorem engineMove_advance {s : State} (h : s.st = .dAdv) : engineMove s = decAdvanceStep (cancelArrives s) := by
  have ha : (cancelArrives s).st = .dAdv := by rw [cancelArrives_eq]; exact h
  rw [engineMove, if_pos h, fsmStep, ha]

theorem decAdvanceStep_cancelled {s : State} (h : s.cancelReq = true) : decAdvanceStep s = s.fail .cancelled := by
  simp [decAdvanceStep, h]

theorem decAdvanceStep_exhausted {s : State} (h : s.cancelReq = false) (hn : nextSeq s.cand = none) :
    decAdvanceStep s = State.fail .notFound { s with exh := true } := by
  simp [decAdvanceStep, h, hn]

theorem decAdvanceStep_next {s : State} {c : BitSeq} (h : s.cancelReq = false) (hn : nextSeq s.cand = some c) :
    decAdvanceStep s = { s with cand := c, st := .dHash } := by
  simp [decAdvanceStep, h, hn]

theorem decCompareStep_match {s : State} (h : s.acc = s.fingerprint) :
    decCompareStep s = { s with count := s.count + 1, matched := true, st := .dEmit } := if_pos h

theorem decCompareStep_differ {s : State} (h : s.acc ≠ s.fingerprint) :
    decCompareStep s = { s with count := s.count + 1, st := .dAdv } := if_neg h

theorem nextStep_exhausted {s : State} (h : nextSeq s.cand = none) :
    nextStep s = State.finish { s with exh := true } := by
  simp [nextStep, h]

theorem nextStep_next {s : State} {c : BitSeq} (h : nextSeq s.cand = some c) :
    nextStep s = State.finish { s with cand := c } := by
  simp [nextStep, h]

end Sys2Proof.Machine
end

