-- ==== Sys2Proof/Laws/PerInstr.lean ====
section
/-! SUPPORT. One fact for every command, as syntax: the word it is encoded by (30_encoding.md R90, R92). -/

namespace Sys2Proof.Laws.EncodedWord

/-- The command is well formed, its word is its opcode as a number, and the word is a legal command word. -/
def Statement (i : Instr) : Prop :=
  i.wf = true ∧ (encode i).toNat = opcode i ∧ commandWordWf (encode i) = true

theorem pack : Statement .pack := ⟨rfl, rfl, by decide⟩

theorem unpack : Statement .unpack := ⟨rfl, rfl, by decide⟩

theorem hash : Statement .hash := ⟨rfl, rfl, by decide⟩

theorem popcnt : Statement .popcnt := ⟨rfl, rfl, by decide⟩

theorem first : Statement .first := ⟨rfl, rfl, by decide⟩

theorem next : Statement .next := ⟨rfl, rfl, by decide⟩

theorem lddesc : Statement .lddesc := ⟨rfl, rfl, by decide⟩

theorem stdesc : Statement .stdesc := ⟨rfl, rfl, by decide⟩

theorem encode : Statement .encode := ⟨rfl, rfl, by decide⟩

theorem decode : Statement .decode := ⟨rfl, rfl, by decide⟩

end Sys2Proof.Laws.EncodedWord
end

