-- ==== Sys2Proof/Laws/Permutation.lean ====
section
/-! SUPPORT. `next` by recursion on the sequence, so that a proof about it is an induction. -/

namespace Sys2Proof.Machine

/-- The indices below `n + 1` that satisfy `p`: 0 if it does, then those of the shifted predicate. -/
theorem filter_range_succ (p : Nat → Bool) (n : Nat) :
    (List.range (n + 1)).filter p =
      (if p 0 then [0] else []) ++ ((List.range n).filter fun i => p (i + 1)).map (· + 1) := by
  rw [List.range_succ_eq_map, List.filter_cons, List.filter_map]
  by_cases h : p 0 = true <;> simp [h, Function.comp_def]

@[simp] theorem bitAt_cons_zero (b : Bool) (c : BitSeq) : bitAt (b :: c) 0 = b := rfl

@[simp] theorem bitAt_cons_succ (b : Bool) (c : BitSeq) (i : Nat) : bitAt (b :: c) (i + 1) = bitAt c i := by
  simp [bitAt]

@[simp] theorem bitAt_nil (i : Nat) : bitAt [] i = false := by simp [bitAt]

theorem bitAt_lt {c : BitSeq} {i : Nat} (h : bitAt c i = true) : i < c.length := by
  by_contra hi
  simp [bitAt, List.getD, List.getElem?_eq_none (Nat.le_of_not_lt hi)] at h

/-- Step 1 of `next` on a longer sequence: the pivot of the rest, or the new first index. -/
theorem pivot_cons (b : Bool) (c : BitSeq) :
    pivot (b :: c) =
      match pivot c with
      | some i => some (i + 1)
      | none => if !b && bitAt c 0 then some 0 else none := by
  cases c with
  | nil => cases b <;> rfl
  | cons x rest =>
    simp only [pivot, List.length_cons, Nat.add_sub_cancel]
    rw [filter_range_succ]
    simp only [bitAt_cons_zero, bitAt_cons_succ, Nat.zero_add]
    cases h : ((List.range rest.length).filter fun i => !bitAt (x :: rest) i && bitAt rest i).getLast? with
    | none =>
      rw [List.getLast?_eq_none_iff] at h
      simp only [h, List.map_nil, List.append_nil]
      split <;> simp_all
    | some i =>
      rw [List.getLast?_append, List.getLast?_map, h]
      rfl

/-- Step 2 of `next` below the first index shifts with the sequence. -/
theorem swapPartner_cons (b : Bool) (c : BitSeq) (i : Nat) :
    swapPartner (b :: c) (i + 1) = (swapPartner c i).map (· + 1) := by
  unfold swapPartner
  rw [List.length_cons, filter_range_succ]
  simp [List.getLast?_map]

theorem swapBits_cons (b : Bool) (c : BitSeq) (i j : Nat) :
    swapBits (b :: c) (i + 1) (j + 1) = b :: swapBits c i j := by
  simp [swapBits]

theorem reverseFrom_cons (b : Bool) (c : BitSeq) (i : Nat) : reverseFrom (b :: c) (i + 1) = b :: reverseFrom c i := by
  simp [reverseFrom]

/-- Where there is a pivot there is a partner to swap it with. -/
theorem swapPartner_isSome {c : BitSeq} {i : Nat} (h : pivot c = some i) : ∃ j, swapPartner c i = some j := by
  have hm := List.mem_of_getLast? h
  simp only [List.mem_filter, List.mem_range, Bool.and_eq_true, Bool.not_eq_true'] at hm
  cases hp : swapPartner c i with
  | some j => exact ⟨j, rfl⟩
  | none =>
    rw [swapPartner, List.getLast?_eq_none_iff, List.filter_eq_nil_iff] at hp
    exact absurd (hp (i + 1) (List.mem_range.mpr (by omega))) (by simp [hm.2.1, hm.2.2])

/-- `next` is Exhausted exactly where step 1 finds no index. -/
theorem nextSeq_none_iff_pivot (c : BitSeq) : nextSeq c = none ↔ pivot c = none := by
  unfold nextSeq
  cases h : pivot c with
  | none => simp
  | some i => obtain ⟨j, hj⟩ := swapPartner_isSome h; simp [hj]

/-- A sequence without a pivot: its ones stand before its zeros. -/
theorem pivot_none_shape {c : BitSeq} (h : pivot c = none) :
    c = List.replicate (popcount c) true ++ List.replicate (c.length - popcount c) false := by
  induction c with
  | nil => rfl
  | cons b rest ih =>
    rw [pivot_cons] at h
    cases hp : pivot rest with
    | some i => simp [hp] at h
    | none =>
      have hrest := ih hp
      simp only [hp] at h
      have hle : popcount rest ≤ rest.length := List.count_le_length
      cases b with
      | true =>
        have e : popcount (true :: rest) = popcount rest + 1 := by simp [popcount]
        rw [e, List.length_cons, List.replicate_succ, List.cons_append, Nat.add_sub_add_right, ← hrest]
      | false =>
        have e : popcount (false :: rest) = popcount rest := by simp [popcount]
        have hz : popcount rest = 0 := by
          by_contra hne
          obtain ⟨k, hk⟩ := Nat.exists_eq_succ_of_ne_zero hne
          rw [hrest, hk] at h
          simp [List.replicate_succ] at h
        rw [hz, List.replicate_zero, List.nil_append, Nat.sub_zero] at hrest
        rw [e, hz, List.replicate_zero, List.nil_append, Nat.sub_zero, List.length_cons, List.replicate_succ, ← hrest]

/-- The last one of `1^(k+1) 0^z` is at index `k`. -/
theorem swapPartner_zero_shape (k z : Nat) :
    swapPartner (false :: (List.replicate (k + 1) true ++ List.replicate z false)) 0 = some (k + 1) := by
  have hlen : (false :: (List.replicate (k + 1) true ++ List.replicate z false)).length = (k + 2) + z := by
    simp; omega
  rw [swapPartner, hlen, List.range_add, List.filter_append]
  have h2 : ((List.range z).map (k + 2 + ·)).filter (fun j => decide (0 < j) &&
      (bitAt (false :: (List.replicate (k + 1) true ++ List.replicate z false)) j &&
        !bitAt (false :: (List.replicate (k + 1) true ++ List.replicate z false)) 0)) = [] := by
    rw [List.filter_eq_nil_iff]
    intro a ha
    obtain ⟨x, hx, rfl⟩ := List.mem_map.mp ha
    have e : k + 2 + x = (k + 1 + x) + 1 := by omega
    have hx : ¬ k + 1 + x ≤ k := by omega
    rw [e, bitAt_cons_succ]
    by_cases hxz : x < z <;> simp [bitAt, List.getD, hxz]
  rw [h2, List.append_nil, List.range_succ, List.filter_append, List.filter_cons_of_pos, List.filter_nil,
    List.getLast?_concat]
  rw [bitAt_cons_succ]
  simp [bitAt, List.getD, List.getElem?_append]

/-- Steps 3 and 4 of `next` at the first index: `0 1^(k+1) 0^z` becomes `1 0^(z+1) 1^k`. -/
theorem nextSeq_front (k z : Nat) :
    reverseFrom (swapBits (false :: (List.replicate (k + 1) true ++ List.replicate z false)) 0 (k + 1)) 1 =
      true :: (List.replicate (z + 1) false ++ List.replicate k true) := by
  have hj : bitAt (List.replicate (k + 1) true ++ List.replicate z false) k = true := by
    simp [bitAt, List.getD, List.getElem?_append]
  have hs : (List.replicate (k + 1) true ++ List.replicate z false).set k false =
      List.replicate k true ++ List.replicate (z + 1) false := by
    rw [List.replicate_succ', List.append_assoc, List.set_append_right _ _ (by simp)]
    simp [List.replicate_succ]
  rw [swapBits, bitAt_cons_succ, hj, bitAt_cons_zero, List.set_cons_zero, List.set_cons_succ, hs]
  simp [reverseFrom]

/-- `next` on a longer sequence: the successor of the rest where there is one, else the carry into the first index. -/
theorem nextSeq_cons (b : Bool) (c : BitSeq) :
    nextSeq (b :: c) =
      match nextSeq c with
      | some d => some (b :: d)
      | none => if !b && bitAt c 0 then some (true :: firstSeq c.length (popcount c - 1)) else none := by
  cases hp : pivot c with
  | some i =>
    obtain ⟨j, hj⟩ := swapPartner_isSome hp
    simp [nextSeq, pivot_cons, hp, hj, swapPartner_cons, swapBits_cons, reverseFrom_cons]
  | none =>
    rw [(nextSeq_none_iff_pivot c).mpr hp]
    by_cases hb : (!b && bitAt c 0) = true
    · simp only [Bool.and_eq_true, Bool.not_eq_true'] at hb
      obtain ⟨rfl, h0⟩ := hb
      have hc := pivot_none_shape hp
      have hk : popcount c ≠ 0 := by
        intro hz
        rw [hc, hz] at h0
        simp [bitAt, List.getD] at h0
      have hle : popcount c ≤ c.length := List.count_le_length
      obtain ⟨k, hk⟩ := Nat.exists_eq_succ_of_ne_zero hk
      obtain ⟨z, hz⟩ : ∃ z, c.length - popcount c = z := ⟨_, rfl⟩
      have hlen : c.length = k + 1 + z := by omega
      have hz' : c.length - k.succ = z := by omega
      rw [hk, hz'] at hc
      have hpc : pivot (false :: c) = some 0 := by simp [pivot_cons, hp, h0]
      have e : c.length - (popcount c - 1) = z + 1 := by omega
      simp only [Bool.not_false, h0, Bool.and_self, if_true, firstSeq, e]
      rw [hk, Nat.succ_sub_one]
      simp only [nextSeq, hpc, Option.bind_eq_bind, Option.bind_some]
      rw [hc, swapPartner_zero_shape, Option.bind_some, nextSeq_front]
      rfl
    · simp [nextSeq, pivot_cons, hp, hb]

@[simp] theorem nextSeq_nil : nextSeq [] = none := rfl

end Sys2Proof.Machine
end

