-- ==== Sys2Proof/Laws/Port.lean ====
section
/-! SUPPORT. The port's answer to a write of CMD, and what reads and refused transactions leave alone. -/

namespace Sys2Proof.Machine

/-- An idle block takes a write to CMD as an issue. -/
theorem performWrite_cmd_idle {s : State} (w : Word) (h : s.busy = false) :
    performWrite cmdOffset w s = (issue w s).answer .okayWrite := by
  simp [performWrite, hostWrite, checkWrite, locate, mapOffset, cmdOffset, bufBase, regAt, readOnly, writeEntry, h,
    bind, Except.bind]

/-- A busy block refuses a write to CMD. -/
theorem performWrite_cmd_busy {s : State} (w : Word) (h : s.busy = true) :
    performWrite cmdOffset w s = s.answer .refused := by
  simp [performWrite, hostWrite, checkWrite, locate, mapOffset, cmdOffset, bufBase, regAt, readOnly, writeWhileBusy, h,
    bind, Except.bind]

theorem performRead_eq (off : Offset) (s : State) : performRead off s = s.answer (hostRead s off) := rfl

/-- A write is either refused, and then only the answer is new, or it has its entry's effect. -/
theorem performWrite_cases (off : Offset) (v : Word) (s : State) :
    performWrite off v s = s.answer .refused ∨
    ∃ e, checkWrite s off = .ok e ∧ performWrite off v s = (writeEntry v s e).answer .okayWrite := by
  unfold performWrite hostWrite
  cases h : checkWrite s off with
  | error e => exact Or.inl rfl
  | ok e => exact Or.inr ⟨e, rfl, rfl⟩

/-- What an accepted write tells: the entry is mapped there, writable, and CTRL if the block is busy. -/
theorem checkWrite_ok {s : State} {off : Offset} {e : PortEntry} (h : checkWrite s off = .ok e) :
    off.toNat % 8 = 0 ∧ mapOffset s.cfg off = some e ∧ readOnly e = false ∧ (s.busy = true → e = .reg .ctrl) := by
  unfold checkWrite locate at h
  by_cases ha : off.toNat % 8 = 0
  · cases hm : mapOffset s.cfg off with
    | none => simp [ha, hm, bind, Except.bind] at h
    | some x =>
      simp only [ha, hm, ne_eq, not_true_eq_false, if_false, bind, Except.bind] at h
      by_cases hr : readOnly x = true
      · simp [hr] at h
      · by_cases hb : (s.busy && !writeWhileBusy x) = true
        · simp [hr, hb] at h
        · rw [if_neg hr, if_neg hb, Except.ok.injEq] at h
          subst h
          refine ⟨ha, rfl, by simpa using hr, fun hbusy => ?_⟩
          simp only [hbusy, Bool.true_and, Bool.not_eq_true', Bool.not_eq_false] at hb
          revert hb
          unfold writeWhileBusy
          split <;> simp
  · simp [ha, bind, Except.bind] at h

/-- A BUF window word that is mapped lies in the window, so its eight bytes lie in BUF (R61, R66). -/
theorem mapOffset_bufWord {cfg : Config} {off : Offset} {w : Nat} (h : mapOffset cfg off = some (.bufWord w)) :
    w < windowWords cfg := by
  unfold mapOffset at h
  dsimp only at h
  split_ifs at h with h1 h2 h3 h4 h5
  · simp at h
  · simp only [Option.some.injEq, PortEntry.bufWord.injEq] at h; omega
  · simp at h

end Sys2Proof.Machine
end

