-- ==== Sys2Proof/Tests/Slice0.lean ====
section
/-! SUPPORT. Own tests. Expected values are those of spec/95_test_vectors.md (ids K, F, E, D, H, X, S) or written out from
30_encoding.md; then, for every statement with hypotheses, a concrete case that meets them. -/

namespace Sys2Proof.Tests

open Sys2Proof.Machine

/-! ### Small states -/

/-- Reset, with these bytes at the start of BUF and BYTE_COUNT their number. -/
def holding (bytes : List Byte) : State :=
  { State.reset with buf := bufWriteBytes [] 0 bytes, byteCount := BitVec.ofNat 64 bytes.length }

/-- Reset, with this sequence in CAND. -/
def seq (c : BitSeq) : State := { State.reset with cand := c }

/-- Reset, with TOTAL_BITS and SET_BITS set. -/
def shape (T K : Word) : State := { State.reset with totalBits := T, setBits := K }

/-- The start of the vectors of 95_test_vectors section 3.4: a record, BUF bytes 55, a cancel parameter. -/
def record (T K F : Word) (q : Option Nat := none) : State :=
  { State.reset with
    drec0 := T, drec1 := K, drec2 := F, drecLen := 24, cancelAt := q
    buf := bufWriteBytes [] 0 (List.replicate 8 0x55) }

/-- A block that is running, in this state of the sequencer. -/
def running (st : Sequencer) : State := { State.reset with st := st, busy := true }

/-- A bit sequence from its digits, index 0 first. -/
def bits (l : List Nat) : BitSeq := l.map (· == 1)

/-- What is left of a next state, through a view of it. -/
def view {α : Type} (f : State → α) : Host.Outcome State Fault Refusal → Option α
  | .next t => some (f t)
  | .fault _ => none
  | .refused _ => none

/-! ### Well-formedness refuses (R8, R90, R95) -/

theorem test_nmax_legal : (Config.mk 64).wf = true ∧ (Config.mk (2 ^ 35)).wf = true := by decide

theorem test_nmax_too_small : (Config.mk 0).wf = false := by decide

theorem test_nmax_not_words : (Config.mk 100).wf = false := by decide

theorem test_nmax_too_large : (Config.mk (2 ^ 35 + 64)).wf = false := by decide

theorem test_word_zero_opcode : commandWordWf 0x0000000000000000 = false := by decide

theorem test_word_opcode_eleven : commandWordWf 0x000000000000000B = false := by decide

theorem test_word_zero_field : commandWordWf 0x0000000000000109 = false := by decide

theorem test_word_legal : commandWordWf 0x000000000000000A = true := by decide

/-! ### Decoding, from words written out from R90 and R92 -/

theorem test_decode_pack : decode 0x0000000000000001 = .ok .pack := by decide

theorem test_decode_unpack : decode 0x0000000000000002 = .ok .unpack := by decide

theorem test_decode_hash : decode 0x0000000000000003 = .ok .hash := by decide

theorem test_decode_popcnt : decode 0x0000000000000004 = .ok .popcnt := by decide

theorem test_decode_first : decode 0x0000000000000005 = .ok .first := by decide

theorem test_decode_next : decode 0x0000000000000006 = .ok .next := by decide

theorem test_decode_lddesc : decode 0x0000000000000007 = .ok .lddesc := by decide

theorem test_decode_stdesc : decode 0x0000000000000008 = .ok .stdesc := by decide

theorem test_decode_encode : decode 0x0000000000000009 = .ok .encode := by decide

theorem test_decode_decode : decode 0x000000000000000A = .ok .decode := by decide

theorem test_decode_refuses :
    decode 0 = .error .opcodeZero ∧ decode 0xB = .error .opcodeAboveTen ∧ decode 0xFF = .error .opcodeAboveTen ∧
    decode 0x109 = .error .zeroFieldSet ∧ decode 0xFFFFFFFFFFFFFFFF = .error .zeroFieldSet := by decide

theorem test_decode_table_word : decodeTableWord 64 7 = some .lddesc ∧ decodeTableWord 64 11 = none := by decide

/-! ### The datapath functions (95 section 2) -/

theorem test_pack_order : packBytes [0xA5, 0x01] = bits [1, 0, 1, 0, 0, 1, 0, 1, 1, 0, 0, 0, 0, 0, 0, 0] := by decide

theorem test_unpack_order : unpackBits (bits [1, 1, 0, 0, 1, 0, 1, 0, 0, 0, 0, 0, 0, 0, 0, 1]) = [0x53, 0x80] := by decide

theorem test_fp_trace : fp (bits [0, 0, 1, 1]) = 0x4D22117F9DCB327F := by decide

theorem test_fp_order : fp (bits [1, 1, 0, 0]) = 0xB5D445774C80560F := by decide

theorem test_next_carry : nextSeq (bits [0, 1, 0, 1, 1, 0, 0]) = some (bits [0, 1, 1, 0, 0, 0, 1]) := by decide

theorem test_rank : rank (bits [1, 0, 1, 0, 0, 1, 0, 1]) = 46 := by decide

/-! ### The commands (95 section 3) -/

/-- K1 -/
theorem test_pack : view (fun t => (t.cand, statusWord t)) (exec .pack (holding [0xA5])) =
    some (bits [1, 0, 1, 0, 0, 1, 0, 1], 0x02) := by decide

/-- K8 -/
theorem test_pack_capacity :
    view (fun t => (t.cand, statusWord t)) (exec .pack { State.reset with byteCount := 9 }) = some ([], 0x62) := by decide

/-- K4 -/
theorem test_unpack : view (fun t => (t.buf, t.byteCount, statusWord t))
    (exec .unpack { seq (bits [1, 0, 1, 0, 0, 1, 0, 1]) with buf := [(1, 0x77)] }) =
    some ([(0, 0xA5), (1, 0x77)], 1, 0x02) := by decide

/-- K10 -/
theorem test_unpack_length :
    view (fun t => (t.buf, t.byteCount, statusWord t)) (exec .unpack (seq (bits [0, 0, 1, 1]))) =
    some ([], 0, 0x22) := by decide

/-- K3 -/
theorem test_hash : view State.acc (exec .hash (seq (bits [1, 0, 1, 0, 0, 1, 0, 1]))) = some 0x5DBA1B5C0634B8E5 := by
  decide

/-- K6 -/
theorem test_hash_empty : view State.acc (exec .hash State.reset) = some 0xCBF29CE484222325 := by decide

/-- K2 -/
theorem test_popcnt : view State.setBits (exec .popcnt (seq (bits [1, 0, 1, 0, 0, 1, 0, 1]))) = some 4 := by decide

/-- F1 -/
theorem test_first : view (fun t => (t.cand, statusWord t)) (exec .first (shape 8 3)) =
    some (bits [0, 0, 0, 0, 0, 1, 1, 1], 0x02) := by decide

/-- F9, ParamError wins -/
theorem test_first_param : view statusWord (exec .first (shape 65 66)) = some 0x52 := by decide

/-- F11 -/
theorem test_next : view (fun t => (t.cand, statusWord t)) (exec .next (seq (bits [1, 0, 1, 0, 0, 1, 0, 1]))) =
    some (bits [1, 0, 1, 0, 0, 1, 1, 0], 0x02) := by decide

/-- F10 -/
theorem test_next_exhausted : view (fun t => (t.cand, statusWord t)) (exec .next (seq (bits [1, 1, 0, 0]))) =
    some (bits [1, 1, 0, 0], 0x06) := by decide

/-- Section 3.3, LDDESC after STDESC -/
theorem test_lddesc : view (fun t => (t.totalBits, t.setBits, t.fingerprint, statusWord t))
    (exec .lddesc (record 8 9 0x1234)) = some (8, 9, 0x1234, 0x02) := by decide

/-- Section 3.3, DREC_LEN = 23 -/
theorem test_lddesc_format : view (fun t => (t.totalBits, statusWord t))
    (exec .lddesc { record 8 9 0x1234 with drecLen := 23 }) = some (0, 0x12) := by decide

/-- Section 3.3, STDESC makes no check -/
theorem test_stdesc : view (fun t => (t.drec0, t.drec1, t.drec2, t.drecLen, statusWord t))
    (exec .stdesc { shape 8 9 with fingerprint := 0x1234 }) = some (8, 9, 0x1234, 24, 0x02) := by decide

/-- E9 -/
theorem test_encode : view (fun t => (t.drec0, t.drec1, t.drec2, t.drecLen)) (exec .encode (holding [0x48, 0x69])) =
    some (16, 6, 0xF5E1ED64056036AB, 24) := by decide

/-- Section 3.3, ENCODE with BYTE_COUNT = 9 -/
theorem test_encode_capacity : view (fun t => (t.drecLen, statusWord t))
    (exec .encode { State.reset with byteCount := 9 }) = some (0, 0x62) := by decide

/-- D3 -/
theorem test_decode_match : view (fun t => (statusWord t, t.count, bufReadBytes t.buf 0 2, t.byteCount))
    (exec .decode (record 8 1 0x89CD31291D2AEFA4)) = some (0x0A, 8, [0x01, 0x55], 1) := by decide +kernel

/-- D5 -/
theorem test_decode_cancel : view (fun t => (statusWord t, t.count, t.cand, t.acc))
    (exec .decode (record 8 1 0x89CD31291D2AEFA4 (some 3))) =
    some (0x42, 3, bits [0, 0, 0, 0, 0, 1, 0, 0], 0xA01E7D3223323B1A) := by decide +kernel

/-! ### The port (95 section 4) -/

/-- H1, H3, H4 -/
theorem test_port_reads : hostRead State.reset 0x18 = ⟨.okay, 64⟩ ∧ hostRead State.reset 0x04 = ⟨.error, 0⟩ ∧
    hostRead State.reset 0x78 = ⟨.error, 0⟩ := by decide

/-- H7, H8 -/
theorem test_port_buf :
    bufReadBytes (performWrite 0x100000000 0x1122334455667788 State.reset).buf 0 8 =
      [0x88, 0x77, 0x66, 0x55, 0x44, 0x33, 0x22, 0x11] ∧
    hostRead (performWrite 0x100000000 0x1122334455667788 State.reset) 0x100000000 = ⟨.okay, 0x1122334455667788⟩ := by
  decide

/-- H17 -/
theorem test_port_cand : hostRead (seq (bits [0, 0, 1, 1])) 0x200000000 = ⟨.okay, 0xC⟩ := by decide

/-- H13 to H15 -/
theorem test_port_busy : hostRead (running .dHash) 0x20 = ⟨.error, 0⟩ ∧
    (hostWrite (running .dHash) 0x00 6).1 = ⟨.error, 0⟩ ∧ hostRead (running .dHash) 0x08 = ⟨.okay, 0x01⟩ := by decide

/-- X3 -/
theorem test_issue_illegal :
    statusWord (performWrite 0x00 0x109 State.reset) = 0x72 ∧ (performWrite 0x00 0x109 State.reset).cmd = 0x109 := by
  decide

/-- X5 -/
theorem test_ack : statusWord (performWrite 0x10 4 (performWrite 0x00 0 State.reset)) = 0x70 := by decide

/-- A program's first command runs in the very next step. -/
theorem test_fetch : step (State.reset.withFetchWord 64 10) = exec .decode State.reset := by rfl

/-! ### Witnesses: each statement's hypotheses are met, every clause at a boundary of its range -/

theorem witness_DecodeExactlyTheTenWords :
    Instr.decode.wf = true ∧ decode 10 = .ok .decode ∧ (10 : Word).toNat = opcode .decode := by decide

theorem witness_IssueOnCmdWrite :
    (running .xHash).busy = true ∧ State.reset.busy = false ∧
    (0x100 : Word).extractLsb 63 8 ≠ 0 ∧ (0 : Word).extractLsb 7 0 = 0 ∧ 10 < ((11 : Word).extractLsb 7 0).toNat ∧
    (1 : Word).toNat = opcode .pack ∧ (10 : Word).toNat = opcode .decode := by decide

theorem witness_IllegalWordEndsAtOnce :
    (0 : Word).toNat = 0 ∧ 10 < (11 : Word).toNat ∧ State.reset.busy = false := by decide

theorem witness_StepRunsDecodedCommand :
    { State.reset with host := [.command 9 (some 2)] }.host = .command 9 (some 2) :: [] ∧ decode 9 = .ok .encode ∧
    decodeTableWord 64 9 = some .encode := by decide

theorem witness_StepIsOneMove :
    State.reset.host = [] ∧ State.reset.st = .idle ∧ (running .dCmp).st ≠ .dAdv ∧ State.reset.cancelAt = none ∧
    { State.reset with host := [.read 8] }.host = .read 8 :: [] ∧
    { State.reset with host := [.write 0 3] }.host = .write 0 3 :: [] ∧
    { State.reset with host := [.engine] }.host = .engine :: [] ∧
    { State.reset with host := [.reset [(0, 7)]] }.host = .reset [(0, 7)] :: [] := by decide

theorem witness_PrimitiveIsOneFsmStep :
    Instr.next ≠ .encode ∧ Instr.next ≠ .decode ∧ (seq (bits [0, 1])).busy = false := by decide

theorem witness_CommandIsIssueThenEngine : (record 8 1 0x89CD31291D2AEFA4 (some 3)).busy = false := by decide

/-- R62's four causes and their boundaries: the last register word, the first byte above it, the last window word. -/
theorem witness_PortErrorsExactly :
    State.reset.cfg.wf = true ∧ (hostRead State.reset 0x70).resp = .okay ∧ (hostRead State.reset 0x78).resp = .error ∧
    (hostRead State.reset 0x71).resp = .error ∧ (hostRead State.reset 0xFFFFFFF8).resp = .error ∧
    (hostRead State.reset 0x100000000).resp = .okay ∧ (hostRead State.reset 0x100000008).resp = .error ∧
    (hostRead State.reset 0x200000000).resp = .okay ∧ (hostRead State.reset 0x300000000).resp = .error ∧
    (hostWrite State.reset 0x200000000 1).1.resp = .error ∧ (hostWrite State.reset 0x48 1).1.resp = .error ∧
    (hostWrite State.reset 0x70 1).1.resp = .okay ∧ (hostRead (running .dHash) 0x70).resp = .error ∧
    (hostRead (running .dHash) 0x40).resp = .okay ∧ (hostWrite (running .dHash) 0x10 1).1.resp = .okay ∧
    (hostWrite (running .dHash) 0x00 1).1.resp = .error := by decide

theorem witness_RegisterReads : (record 8 1 5).busy = false ∧ (running .dHash).busy = true := by decide

theorem witness_RegisterWrites : (record 8 1 5).busy = false := by decide

/-- The first and the last word of a window of two words. -/
theorem witness_BufWindow :
    let s := State.resetWith ⟨128⟩ [(8, 1)]
    s.cfg.wf = true ∧ s.busy = false ∧ bufWf s.buf = true ∧ 0 < s.cfg.nmax / 64 ∧ 1 < s.cfg.nmax / 64 ∧
    (0x100000000 : Offset).toNat = 0x100000000 + 8 * 0 ∧ (0x100000008 : Offset).toNat = 0x100000000 + 8 * 1 := by
  decide

theorem witness_CandWindow :
    let s := { State.resetWith ⟨128⟩ [] with cand := bits [1, 0, 1] }
    s.cfg.wf = true ∧ s.busy = false ∧ 0 < s.cfg.nmax / 64 ∧ 1 < s.cfg.nmax / 64 ∧
    (0x200000000 : Offset).toNat = 0x200000000 + 8 * 0 ∧ (0x200000008 : Offset).toNat = 0x200000000 + 8 * 1 := by
  decide

/-- A legal idle state. -/
theorem inv_reset : Inv State.reset :=
  ⟨by decide, by decide, by decide, by decide, by decide, by decide, by decide, by decide⟩

/-- A legal state in which a decode is hashing, and one in which it is unpacking its match. -/
theorem witness_StatusWhileBusy :
    (Inv (running .dHash) ∧ (running .dHash).busy = true) ∧
    (Inv { running .dEmit with matched := true } ∧ { running .dEmit with matched := true }.busy = true) :=
  ⟨⟨⟨by decide, by decide, by decide, by decide, by decide, by decide, by decide, by decide⟩, by decide⟩,
    ⟨by decide, by decide, by decide, by decide, by decide, by decide, by decide, by decide⟩, by decide⟩

theorem witness_CtrlWriteAndRead : (7 : Word).getLsbD 2 = true ∧ (3 : Word).getLsbD 2 = false := by decide

theorem witness_IrqFollowsDone :
    State.reset.busy = false ∧ (5 : Word).getLsbD 2 = true ∧ (2 : Word).getLsbD 0 = false := by decide

/-- BYTE_COUNT at NMAX/8 and one above it. -/
theorem witness_PackResult :
    (holding (List.replicate 8 1)).busy = false ∧
    ¬ (holding (List.replicate 8 1)).cfg.nmax / 8 < (holding (List.replicate 8 1)).byteCount.toNat ∧
    (holding (List.replicate 9 1)).cfg.nmax / 8 < (holding (List.replicate 9 1)).byteCount.toNat := by decide

/-- LEN 8 and LEN 7. -/
theorem witness_UnpackResult :
    (seq (List.replicate 8 true)).busy = false ∧ (seq (List.replicate 8 true)).cand.length % 8 = 0 ∧
    (seq (List.replicate 7 true)).cand.length % 8 ≠ 0 := by decide

theorem witness_HashResult : (seq (bits [1])).busy = false := by decide

theorem witness_PopcntResult : (seq (bits [1])).busy = false := by decide

/-- SET_BITS at TOTAL_BITS and one above; TOTAL_BITS at NMAX and one above. -/
theorem witness_FirstResult :
    (shape 64 64).busy = false ∧ ¬ (shape 64 64).totalBits.toNat < (shape 64 64).setBits.toNat ∧
    ¬ (shape 64 64).cfg.nmax < (shape 64 64).totalBits.toNat ∧
    (shape 64 65).totalBits.toNat < (shape 64 65).setBits.toNat ∧
    (shape 65 65).cfg.nmax < (shape 65 65).totalBits.toNat := by decide

theorem witness_NextResult :
    (seq (bits [0, 1])).busy = false ∧ nextSeq (seq (bits [0, 1])).cand = some (bits [1, 0]) ∧
    nextSeq (seq (bits [1, 0])).cand = none := by decide

theorem witness_LddescResult :
    (record 8 9 1).busy = false ∧ (record 8 9 1).drecLen = 24 ∧ { record 8 9 1 with drecLen := 25 }.drecLen ≠ 24 := by
  decide

theorem witness_StdescResult : (shape 8 9).busy = false := by decide

theorem witness_EncodeResult :
    (holding (List.replicate 8 1)).busy = false ∧
    ¬ (holding (List.replicate 8 1)).cfg.nmax / 8 < (holding (List.replicate 8 1)).byteCount.toNat ∧
    (holding (List.replicate 9 1)).cfg.nmax / 8 < (holding (List.replicate 9 1)).byteCount.toNat := by decide

/-- Each clause one past the limit the check makes. -/
theorem witness_DecodeEntryErrors :
    { record 8 1 0 with drecLen := 23 }.busy = false ∧ { record 8 1 0 with drecLen := 23 }.drecLen ≠ 24 ∧
    (record 8 9 0).drecLen = 24 ∧ (record 8 9 0).drec0.toNat < (record 8 9 0).drec1.toNat ∧
    (record 65 65 0).drecLen = 24 ∧ (record 65 65 0).drec1.toNat ≤ (record 65 65 0).drec0.toNat ∧
    (record 65 65 0).cfg.nmax < (record 65 65 0).drec0.toNat := by decide

/-- D6: the match comes with the comparison after which the cancel write was planned. -/
theorem witness_DecodeStopsAtFirstMatch :
    let s := record 8 1 0x89CD31291D2AEFA4 (some 8)
    s.busy = false ∧ s.drecLen = 24 ∧ s.drec1.toNat ≤ s.drec0.toNat ∧ s.drec0.toNat ≤ s.cfg.nmax ∧ 1 ≤ 8 ∧
    candidate s.drec0.toNat s.drec1.toNat 8 = some (bits [1, 0, 0, 0, 0, 0, 0, 0]) ∧
    fp (bits [1, 0, 0, 0, 0, 0, 0, 0]) = s.drec2 ∧ noMatchBefore s.drec0.toNat s.drec1.toNat 8 s.drec2 ∧
    (∀ q, s.cancelAt = some q → 8 ≤ max q 1) ∧ s.drec0.toNat % 8 = 0 := by
  refine ⟨by decide, by decide, by decide, by decide, by decide, by decide +kernel, by decide +kernel, ?_, ?_,
    by decide⟩
  · intro j c h1 h8 hc
    obtain rfl | rfl | rfl | rfl | rfl | rfl | rfl : j = 1 ∨ j = 2 ∨ j = 3 ∨ j = 4 ∨ j = 5 ∨ j = 6 ∨ j = 7 := by omega
    all_goals
      obtain rfl := Option.some.inj hc
      decide +kernel
  · intro q hq
    obtain rfl : 8 = q := Option.some.inj hq
    decide

/-- D13: a match of a length that is no multiple of 8; and a match at the first candidate with `cancelAt = some 0`. -/
theorem witness_DecodeStopsAtFirstMatch_length :
    let s := record 4 2 0x4D22117F9DCB327F (some 0)
    s.busy = false ∧ s.drecLen = 24 ∧ s.drec1.toNat ≤ s.drec0.toNat ∧ s.drec0.toNat ≤ s.cfg.nmax ∧
    candidate s.drec0.toNat s.drec1.toNat 1 = some (bits [0, 0, 1, 1]) ∧
    fp (bits [0, 0, 1, 1]) = s.drec2 ∧ noMatchBefore s.drec0.toNat s.drec1.toNat 1 s.drec2 ∧
    (∀ q, s.cancelAt = some q → 1 ≤ max q 1) ∧ s.drec0.toNat % 8 ≠ 0 := by
  refine ⟨by decide, by decide, by decide, by decide, by decide, by decide, ?_, ?_, by decide⟩
  · intro j c h1 h8; omega
  · intro q hq; omega

/-- D8: the cancel write lands before the first sample. -/
theorem witness_DecodeCancelled :
    let s := record 8 1 0x89CD31291D2AEFA5 (some 1)
    s.busy = false ∧ s.drecLen = 24 ∧ s.drec1.toNat ≤ s.drec0.toNat ∧ s.drec0.toNat ≤ s.cfg.nmax ∧
    s.cancelAt = some 1 ∧ candidate s.drec0.toNat s.drec1.toNat (max 1 1) = some (bits [0, 0, 0, 0, 0, 0, 0, 1]) ∧
    noMatchBefore s.drec0.toNat s.drec1.toNat (max 1 1 + 1) s.drec2 := by
  refine ⟨by decide, by decide, by decide, by decide, by decide, by decide, ?_⟩
  intro j c h1 h2 hc
  obtain rfl : j = 1 := by omega
  obtain rfl := Option.some.inj hc
  decide +kernel

/-- D2, with a cancel write planned for just after the last comparison. -/
theorem witness_DecodeNotFound :
    let s := record 0 0 0 (some 2)
    s.busy = false ∧ s.drecLen = 24 ∧ s.drec1.toNat ≤ s.drec0.toNat ∧ s.drec0.toNat ≤ s.cfg.nmax ∧
    (∀ c, isArrangement s.drec0.toNat s.drec1.toNat c → fp c ≠ s.drec2) ∧
    (∀ q, s.cancelAt = some q → Nat.choose s.drec0.toNat s.drec1.toNat < q) := by
  refine ⟨by decide, by decide, by decide, by decide, ?_, ?_⟩
  · intro c hc
    obtain rfl := List.eq_nil_of_length_eq_zero hc.1
    decide
  · intro q hq
    obtain rfl : 2 = q := Option.some.inj hq
    decide

/-- The smallest and the largest record the check lets pass. -/
theorem witness_DecodeEnds :
    (record 0 0 1).busy = false ∧ (record 0 0 1).drec1.toNat ≤ (record 0 0 1).drec0.toNat ∧
    (record 64 64 1).drec1.toNat ≤ (record 64 64 1).drec0.toNat ∧
    (record 64 64 1).drec0.toNat ≤ (record 64 64 1).cfg.nmax := by decide

/-- Two states that differ outside the record. -/
theorem witness_DecodeUsesOnlyTheRecord :
    let s₁ := record 8 1 7 (some 3)
    let s₂ := { s₁ with buf := [(2, 9)], acc := 5, count := 4, cand := bits [1, 1], ie := true }
    s₁.busy = false ∧ s₂.busy = false ∧ bufWf s₁.buf = true ∧ bufWf s₂.buf = true ∧ s₁.cfg = s₂.cfg ∧
    s₁.drecLen = s₂.drecLen ∧ s₁.drec0 = s₂.drec0 ∧ s₁.drec1 = s₂.drec1 ∧ s₁.drec2 = s₂.drec2 ∧
    s₁.cancelAt = s₂.cancelAt ∧ s₁.buf ≠ s₂.buf := by decide

/-- One zero byte: nothing is smaller than its encoding, so the inner hypothesis holds too. -/
theorem witness_RoundTrip :
    let s := holding [0]
    s.cfg.wf = true ∧ s.busy = false ∧ bufWf s.buf = true ∧ s.byteCount.toNat ≤ s.cfg.nmax / 8 ∧
    s.cancelAt = none ∧ 0 < s.byteCount.toNat ∧
    ∃ t, exec .encode s = .next t ∧
      ∀ d, lexLt d t.cand → popcount d = popcount t.cand → fp d ≠ fp t.cand := by
  refine ⟨by decide, by decide, by decide, by decide, by decide, by decide, _, rfl, ?_⟩
  rintro d ⟨_, i, hi, _, _, h1⟩
  exact absurd h1 (by
    show ¬ (List.replicate 8 false).getD i false = true
    rw [List.getD, List.getElem?_replicate]
    split <;> exact Bool.false_ne_true)

theorem witness_CommandsWriteOnlyTheirRow :
    (seq (bits [1, 0, 0, 0, 0, 0, 0, 0])).busy = false ∧ (record 8 1 7).busy = false ∧ (holding [1]).busy = false := by
  decide

/-- An UNPACK that stores a byte, one that raises LengthError, a DECODE that stores a byte. -/
theorem witness_BytesStored :
    (seq (List.replicate 8 true)).busy = false ∧ bufWf (seq (List.replicate 8 true)).buf = true ∧
    view State.err (exec .unpack (seq (List.replicate 8 true))) = some .none ∧
    view State.err (exec .unpack (seq (List.replicate 7 true))) = some .length ∧
    bufWf (record 8 8 0xE7E395A2AD0BC74D).buf = true ∧
    view State.err (exec .decode (record 8 8 0xE7E395A2AD0BC74D)) = some .none := by decide +kernel

/-- A byte of BUF changes in X_UNPACK and in D_EMIT. -/
theorem witness_EngineWritesBufOnlyOnOutput :
    let s := { running .xUnpack with cand := List.replicate 8 true }
    let t := { running .dEmit with cand := List.replicate 8 true }
    bufRead (engineMove s).buf 0 ≠ bufRead s.buf 0 ∧ bufRead (engineMove t).buf 0 ≠ bufRead t.buf 0 := by decide

theorem witness_CountChangesOnlyInDecode :
    (performWrite 0x0 10 { State.reset with count := 5 }).count ≠ { State.reset with count := 5 }.count := by decide

theorem witness_CancelReachesOnlyDecode :
    Instr.hash ≠ .decode ∧ { State.reset with cancelReq := true }.busy = false := by decide

/-- A legal state, a step of it, and a busy one with a cancel write to come. -/
theorem witness_StepKeepsInvariants :
    (Inv State.reset ∧ step State.reset = .next State.reset) ∧
    Inv { running .dHash with cancelAt := some 1, host := [.engine] } :=
  ⟨⟨inv_reset, rfl⟩, by decide, by decide, by decide, by decide, by decide, by decide, by decide, by decide⟩

theorem witness_CapIsConstant : step State.reset = .next State.reset := rfl

theorem witness_ResetValues : bufWf [(0, 1), (7, 2)] = true ∧ bufWithin ⟨64⟩ [(0, 1), (7, 2)] = true := by decide

/-- The least and the largest NMAX, with a cell in the last byte of BUF. -/
theorem witness_ResetMeetsInvariants :
    (Config.mk 64).wf = true ∧ (Config.mk (2 ^ 35)).wf = true ∧ bufWf [(7, 1)] = true ∧
    bufWithin ⟨64⟩ [(7, 1)] = true ∧ bufWithin ⟨2 ^ 35⟩ [(2 ^ 32 - 1, 1)] = true := by decide

theorem witness_DecodeSequencerTable :
    State.reset.st = .idle ∧ State.reset.busy = false ∧ (running .dLoad).st = .dLoad ∧ (running .dCheck).st = .dCheck ∧
    (running .dSeed).st = .dSeed ∧ (running .dHash).st = .dHash ∧ (running .dCmp).st = .dCmp ∧
    (running .dAdv).st = .dAdv ∧ (running .dEmit).st = .dEmit := by decide

theorem witness_EncodeSequencerTable :
    (running .ePack).st = .ePack ∧ (running .eCount).st = .eCount ∧ (running .eHash).st = .eHash ∧
    (running .eStore).st = .eStore := by decide

theorem witness_PackAndUnpackBits :
    0 < [0x80#8].length ∧ (List.replicate 16 true).length % 8 = 0 ∧
    1 < (unpackBits (List.replicate 16 true)).length := by decide

theorem witness_PackUnpackInverse :
    (List.replicate 8 true).length % 8 = 0 ∧ (holding (List.replicate 8 3)).busy = false ∧
    bufWf (holding (List.replicate 8 3)).buf = true ∧
    (holding (List.replicate 8 3)).byteCount.toNat ≤ (holding (List.replicate 8 3)).cfg.nmax / 8 := by decide

theorem witness_PackedWindowsAgree :
    (holding [1, 2]).busy = false ∧ (holding [1, 2]).byteCount.toNat ≤ (holding [1, 2]).cfg.nmax / 8 := by decide

theorem witness_FingerprintSingleBit :
    fpStep 5 true = fpStep 5 true ∧ (bits [0, 1]).length = (bits [1, 0]).length := by decide

theorem witness_NextClosedForm :
    nextSeq (bits [0] ++ [false] ++ List.replicate 1 true ++ List.replicate 0 false) = some (bits [0, 1, 0]) ∧
    nextSeq (List.replicate 2 true ++ List.replicate 3 false) = none := by decide

theorem witness_NextKeepsLengthAndCount : nextSeq (bits [0, 1, 1, 0]) = some (bits [1, 0, 0, 1]) := by decide

theorem witness_NextIsLeastGreater :
    nextSeq (bits [0, 1, 1, 0]) = some (bits [1, 0, 0, 1]) ∧ 2 ≤ 4 ∧ isArrangement 4 2 (bits [1, 0, 0, 1]) ∧
    isArrangement 0 0 [] :=
  ⟨by decide, by decide, ⟨by decide, by decide⟩, by decide, by decide⟩

/-- The first and the last of the six arrangements of (4, 2), and the place after the last. -/
theorem witness_EnumerationIsComplete :
    candidate 4 2 1 = some (bits [0, 0, 1, 1]) ∧ candidate 4 2 6 = some (bits [1, 1, 0, 0]) ∧
    candidate 4 2 7 = none ∧ Nat.choose 4 2 = 6 := by decide

theorem witness_RankCountsSteps : isArrangement 4 2 (bits [1, 1, 0, 0]) ∧ rank (bits [1, 1, 0, 0]) = 5 :=
  ⟨⟨by decide, by decide⟩, by decide⟩

theorem witness_EncodeMakesDescriptor :
    (holding (List.replicate 8 5)).cfg.wf = true ∧ (holding (List.replicate 8 5)).busy = false ∧
    (holding (List.replicate 8 5)).byteCount.toNat ≤ (holding (List.replicate 8 5)).cfg.nmax / 8 := by decide

theorem witness_EncodeEqualsPrimitives :
    (holding [1]).busy = false ∧ (holding [1]).byteCount.toNat ≤ (holding [1]).cfg.nmax / 8 ∧
    (holding [1]).cancelAt = none := by decide

/-- No ones, and only ones at the largest length; then the record D17. -/
theorem witness_SingleMemberEnumerations :
    (shape 8 0).busy = false ∧ (shape 8 0).totalBits.toNat ≤ (shape 8 0).cfg.nmax ∧ (shape 8 0).setBits = 0 ∧
    (shape 64 64).totalBits.toNat ≤ (shape 64 64).cfg.nmax ∧ (shape 64 64).setBits = (shape 64 64).totalBits ∧
    (record 8 8 0xE7E395A2AD0BC74D).busy = false ∧ (record 8 8 0xE7E395A2AD0BC74D).drecLen = 24 ∧
    (record 8 8 0xE7E395A2AD0BC74D).drec0.toNat ≤ (record 8 8 0xE7E395A2AD0BC74D).cfg.nmax ∧
    (record 8 8 0xE7E395A2AD0BC74D).drec0.toNat % 8 = 0 ∧
    (record 8 8 0xE7E395A2AD0BC74D).drec1 = (record 8 8 0xE7E395A2AD0BC74D).drec0 ∧
    (record 8 8 0xE7E395A2AD0BC74D).drec2 = fp (firstSeq 8 8) := by decide

end Sys2Proof.Tests
end

section
/-! PROOFS. One turn of the engine, said once: what each sequencer state can come to. -/

namespace Sys2Proof.Machine

/-- What one turn of the engine makes of a state, one constructor per outcome of a sequencer state with the condition it
comes under (R93, R137, R175). The error a command fails with is left open; D_CMP never fails. -/
inductive EngineTurn (s : State) : State → Prop where
  | idle (h : s.st = .idle) : EngineTurn s s
  | failed (e : ErrCode) (h : s.st ≠ .idle) (hc : s.st ≠ .dCmp) : EngineTurn s (s.fail e)
  | packed (h : s.st = .xPack) (fits : s.byteCount.toNat ≤ bufBytes s.cfg) :
      EngineTurn s (State.finish { s with cand := packBytes (inputBytes s) })
  | unpacked (h : s.st = .xUnpack) (hlen : s.len % 8 = 0) :
      EngineTurn s (State.finish { s with
        buf := bufWriteBytes s.buf 0 (unpackBits s.cand), byteCount := BitVec.ofNat 64 (s.len / 8) })
  | hashed (h : s.st = .xHash) : EngineTurn s (opHash s).finish
  | counted (h : s.st = .xPopcnt) : EngineTurn s (opPopcnt s).finish
  | seeded (h : s.st = .xFirst) (param : s.setBits.toNat ≤ s.totalBits.toNat)
      (capacity : s.totalBits.toNat ≤ s.cfg.nmax) : EngineTurn s (opSeed s).finish
  | exhausted (h : s.st = .xNext) (hn : nextSeq s.cand = none) : EngineTurn s (State.finish { s with exh := true })
  | advanced (h : s.st = .xNext) {c : BitSeq} (hn : nextSeq s.cand = some c) :
      EngineTurn s (State.finish { s with cand := c })
  | loaded (h : s.st = .xLddesc) (hlen : s.drecLen = 24) :
      EngineTurn s (State.finish { s with totalBits := s.drec0, setBits := s.drec1, fingerprint := s.drec2 })
  | stored (h : s.st = .xStdesc) : EngineTurn s (opStdesc s).finish
  | encPacked (h : s.st = .ePack) (fits : s.byteCount.toNat ≤ bufBytes s.cfg) :
      EngineTurn s { s with cand := packBytes (inputBytes s), st := .eCount }
  | encCounted (h : s.st = .eCount) : EngineTurn s { opPopcnt (takeLength s) with st := .eHash }
  | encHashed (h : s.st = .eHash) : EngineTurn s { opHash s with st := .eStore }
  | encStored (h : s.st = .eStore) : EngineTurn s (opStdesc (takeFingerprint s)).finish
  | decLoaded (h : s.st = .dLoad) (hlen : s.drecLen = 24) :
      EngineTurn s { s with totalBits := s.drec0, setBits := s.drec1, fingerprint := s.drec2, st := .dCheck }
  | decChecked (h : s.st = .dCheck) (param : s.setBits.toNat ≤ s.totalBits.toNat)
      (capacity : s.totalBits.toNat ≤ s.cfg.nmax) : EngineTurn s { s with st := .dSeed }
  | decSeeded (h : s.st = .dSeed) : EngineTurn s { opSeed s with st := .dHash }
  | decHashed (h : s.st = .dHash) : EngineTurn s { opHash s with st := .dCmp }
  | decMatched (h : s.st = .dCmp) (hm : s.acc = s.fingerprint) :
      EngineTurn s { s with count := s.count + 1, matched := true, st := .dEmit }
  | decDiffered (h : s.st = .dCmp) (hm : s.acc ≠ s.fingerprint) :
      EngineTurn s { s with count := s.count + 1, st := .dAdv }
  | decCancelled (h : s.st = .dAdv) (hc : (cancelArrives s).cancelReq = true) :
      EngineTurn s ((cancelArrives s).fail .cancelled)
  | decExhausted (h : s.st = .dAdv) (hc : (cancelArrives s).cancelReq = false) (hn : nextSeq s.cand = none) :
      EngineTurn s (State.fail .notFound { cancelArrives s with exh := true })
  | decAdvanced (h : s.st = .dAdv) (hc : (cancelArrives s).cancelReq = false) {c : BitSeq}
      (hn : nextSeq s.cand = some c) : EngineTurn s { cancelArrives s with cand := c, st := .dHash }
  | decEmitted (h : s.st = .dEmit) (hlen : s.len % 8 = 0) :
      EngineTurn s (State.finish { s with
        buf := bufWriteBytes s.buf 0 (unpackBits s.cand), byteCount := BitVec.ofNat 64 (s.len / 8) })

/-! ### The operations that can raise an error -/

theorem opPack_cases (s : State) :
    opPack s = .error .capacity ∨
    s.byteCount.toNat ≤ bufBytes s.cfg ∧ opPack s = .ok { s with cand := packBytes (inputBytes s) } := by
  rcases Nat.lt_or_ge (bufBytes s.cfg) s.byteCount.toNat with h | h
  · exact .inl (opPack_full h)
  · exact .inr ⟨h, opPack_fits h⟩

theorem opUnpack_cases (s : State) :
    opUnpack s = .error .length ∨
    s.len % 8 = 0 ∧ opUnpack s = .ok { s with buf := bufWriteBytes s.buf 0 (unpackBits s.cand)
                                              byteCount := BitVec.ofNat 64 (s.len / 8) } := by
  by_cases h : s.len % 8 = 0
  · exact .inr ⟨h, opUnpack_bytes h⟩
  · exact .inl (opUnpack_odd h)

theorem opLddesc_cases (s : State) :
    opLddesc s = .error .format ∨
    s.drecLen = 24 ∧
      opLddesc s = .ok { s with totalBits := s.drec0, setBits := s.drec1, fingerprint := s.drec2 } := by
  by_cases h : s.drecLen = 24
  · exact .inr ⟨h, opLddesc_record h⟩
  · exact .inl (opLddesc_wrongSize h)

theorem checkParams_cases (s : State) :
    (∃ e, checkParams s = .error e) ∨
    s.setBits.toNat ≤ s.totalBits.toNat ∧ s.totalBits.toNat ≤ s.cfg.nmax ∧ checkParams s = .ok s := by
  rcases Nat.lt_or_ge s.totalBits.toNat s.setBits.toNat with h1 | h1
  · exact .inl ⟨_, checkParams_param h1⟩
  · rcases Nat.lt_or_ge s.cfg.nmax s.totalBits.toNat with h2 | h2
    · exact .inl ⟨_, checkParams_capacity h1 h2⟩
    · exact .inr ⟨h1, h2, checkParams_ok h1 h2⟩

/-! ### The turn -/

theorem decAdvanceStep_turn {s : State} (h : s.st = .dAdv) : EngineTurn s (decAdvanceStep (cancelArrives s)) := by
  have hcand : (cancelArrives s).cand = s.cand := by rw [cancelArrives_eq]
  cases hc : (cancelArrives s).cancelReq with
  | true => rw [decAdvanceStep_cancelled hc]; exact .decCancelled h hc
  | false =>
    cases hn : nextSeq s.cand with
    | none => rw [decAdvanceStep_exhausted hc (hcand ▸ hn)]; exact .decExhausted h hc hn
    | some c => rw [decAdvanceStep_next hc (hcand ▸ hn)]; exact .decAdvanced h hc hn

/-- Every turn of the engine is one of these. -/
theorem engineMove_turn (s : State) : EngineTurn s (engineMove s) := by
  by_cases ha : s.st = .dAdv
  · exact engineMove_advance ha ▸ decAdvanceStep_turn ha
  rw [engineMove_other ha]
  cases h : s.st with
  | idle => rw [fsmStep, h]; exact .idle h
  | xPack =>
    simp only [fsmStep, h, packStep]
    rcases opPack_cases s with ho | ⟨fits, ho⟩ <;> rw [ho]
    · exact .failed _ (by simp [h]) (by simp [h])
    · exact .packed h fits
  | xUnpack =>
    simp only [fsmStep, h, unpackStep]
    rcases opUnpack_cases s with ho | ⟨hlen, ho⟩ <;> rw [ho]
    · exact .failed _ (by simp [h]) (by simp [h])
    · exact .unpacked h hlen
  | xHash => rw [fsmStep, h]; exact .hashed h
  | xPopcnt => rw [fsmStep, h]; exact .counted h
  | xFirst =>
    simp only [fsmStep, h, firstStep]
    rcases checkParams_cases s with ⟨e, ho⟩ | ⟨param, capacity, ho⟩ <;> rw [ho]
    · exact .failed _ (by simp [h]) (by simp [h])
    · exact .seeded h param capacity
  | xNext =>
    simp only [fsmStep, h]
    cases hn : nextSeq s.cand with
    | none => rw [nextStep_exhausted hn]; exact .exhausted h hn
    | some c => rw [nextStep_next hn]; exact .advanced h hn
  | xLddesc =>
    simp only [fsmStep, h, lddescStep]
    rcases opLddesc_cases s with ho | ⟨hlen, ho⟩ <;> rw [ho]
    · exact .failed _ (by simp [h]) (by simp [h])
    · exact .loaded h hlen
  | xStdesc => rw [fsmStep, h]; exact .stored h
  | ePack =>
    simp only [fsmStep, h, encPackStep]
    rcases opPack_cases s with ho | ⟨fits, ho⟩ <;> rw [ho]
    · exact .failed _ (by simp [h]) (by simp [h])
    · exact .encPacked h fits
  | eCount => rw [fsmStep, h]; exact .encCounted h
  | eHash => rw [fsmStep, h]; exact .encHashed h
  | eStore => rw [fsmStep, h]; exact .encStored h
  | dLoad =>
    simp only [fsmStep, h, decLoadStep]
    rcases opLddesc_cases s with ho | ⟨hlen, ho⟩ <;> rw [ho]
    · exact .failed _ (by simp [h]) (by simp [h])
    · exact .decLoaded h hlen
  | dCheck =>
    simp only [fsmStep, h, decCheckStep]
    rcases checkParams_cases s with ⟨e, ho⟩ | ⟨param, capacity, ho⟩ <;> rw [ho]
    · exact .failed _ (by simp [h]) (by simp [h])
    · exact .decChecked h param capacity
  | dSeed => rw [fsmStep, h]; exact .decSeeded h
  | dHash => rw [fsmStep, h]; exact .decHashed h
  | dCmp =>
    simp only [fsmStep, h]
    by_cases hm : s.acc = s.fingerprint
    · rw [decCompareStep_match hm]; exact .decMatched h hm
    · rw [decCompareStep_differ hm]; exact .decDiffered h hm
  | dAdv => exact absurd h ha
  | dEmit =>
    simp only [fsmStep, h, decEmitStep]
    rcases opUnpack_cases s with ho | ⟨hlen, ho⟩ <;> rw [ho]
    · exact .failed _ (by simp [h]) (by simp [h])
    · exact .decEmitted h hlen

theorem engineRun_idle (n : Nat) {s : State} (h : s.st = .idle) : engineRun n s = s := by
  induction n with
  | zero => rfl
  | succ n ih =>
    have hm : engineMove s = s := by rw [engineMove_other (by simp [h]), fsmStep, h]
    rw [engineRun, hm, ih]

end Sys2Proof.Machine
end

section
/-! PROOFS. Every command, from its issue to its end, is a run of the engine. That DECODE's loop has a bound does not
matter here: a loop that ran out of it is a run that has not ended. -/

namespace Sys2Proof.Machine

/-- The state with the engine standing at `x`. -/
def State.withSt (x : Sequencer) (s : State) : State := { s with st := x }

/-- Where the engine stands is no concern of UNPACK's step, which ends in IDLE. -/
theorem unpackStep_withSt (x : Sequencer) (s : State) : unpackStep (s.withSt x) = unpackStep s := by
  by_cases h : s.len % 8 = 0
  · rw [unpackStep, unpackStep, opUnpack_bytes h, opUnpack_bytes (s := s.withSt x) h]; rfl
  · rw [unpackStep, unpackStep, opUnpack_odd h, opUnpack_odd (s := s.withSt x) h]; rfl

/-- Nor of D_ADV's step, which says itself where the engine goes. -/
theorem decAdvanceStep_withSt (x : Sequencer) (s : State) : decAdvanceStep (s.withSt x) = decAdvanceStep s := rfl

theorem cancelArrives_withSt (x : Sequencer) (s : State) :
    cancelArrives (s.withSt x) = (cancelArrives s).withSt x := by
  rw [cancelArrives_eq, cancelArrives_eq s]; rfl

/-- Two turns from D_HASH make one comparison (R166, R167). -/
theorem engineRun_hash (n : Nat) (s : State) :
    engineRun (n + 2) (s.withSt .dHash) = engineRun n (decCompareStep ((opHash s).withSt .dCmp)) := rfl

theorem engineRun_emit (s : State) : engineRun 1 (s.withSt .dEmit) = unpackStep s := by
  rw [← unpackStep_withSt .dEmit s]; rfl

theorem engineRun_advance (n : Nat) (s : State) :
    engineRun (n + 1) (s.withSt .dAdv) = engineRun n (decAdvanceStep (cancelArrives s)) := by
  rw [engineRun, engineMove_advance rfl, cancelArrives_withSt, decAdvanceStep_withSt]

/-- Three turns from D_HASH where the comparison fails: the third is the advance, after a cancel write that is due. -/
theorem engineRun_differ {s : State} (n : Nat) (h : fp s.cand ≠ s.fingerprint) :
    engineRun (n + 3) (s.withSt .dHash) = engineRun n (decAdvanceStep (cancelArrives (opCount (opHash s)))) := by
  rw [engineRun_hash, decCompareStep_differ (s := (opHash s).withSt .dCmp) h]
  exact engineRun_advance n (opCount (opHash s))

/-- DECODE's loop is a run of the engine from D_HASH, whatever the bound on its comparisons (R163, R175). -/
theorem decodeLoop_engineRun (fuel : Nat) (s : State) : ∃ n, decodeLoop fuel s = engineRun n (s.withSt .dHash) := by
  induction fuel generalizing s with
  | zero => exact ⟨0, rfl⟩
  | succ fuel ih =>
    rcases eq_or_ne (fp s.cand) s.fingerprint with hf | hf
    · refine ⟨3, ?_⟩
      rw [decodeLoop_match _ hf, engineRun_hash, decCompareStep_match (s := (opHash s).withSt .dCmp) hf]
      exact (engineRun_emit _).symm
    · have hcand : (cancelArrives (opCount (opHash s))).cand = s.cand := by rw [cancelArrives_eq]; rfl
      cases hc : (cancelArrives (opCount (opHash s))).cancelReq with
      | true =>
        refine ⟨3, (decodeLoop_cancelled _ hf hc).trans ?_⟩
        rw [engineRun_differ _ hf, decAdvanceStep_cancelled hc]
        rfl
      | false =>
        cases hn : nextSeq s.cand with
        | none =>
          refine ⟨3, (decodeLoop_exhausted _ hf hc hn).trans ?_⟩
          rw [engineRun_differ _ hf, decAdvanceStep_exhausted hc (hcand ▸ hn)]
          rfl
        | some c =>
          obtain ⟨n, hrun⟩ := ih { cancelArrives (opCount (opHash s)) with cand := c }
          refine ⟨n + 3, (decodeLoop_advance _ hf hc hn).trans (hrun.trans ?_)⟩
          rw [engineRun_differ _ hf, decAdvanceStep_next hc (hcand ▸ hn)]
          rfl

/-- DECODE's body is a run of the engine from D_LOAD (R163, R175). -/
theorem decodeBody_engineRun {s : State} (h : s.st = .dLoad) : ∃ n, decodeBody s = engineRun n s := by
  have load (n : Nat) : engineRun (n + 1) s = engineRun n (decLoadStep s) := by
    rw [engineRun, engineMove_other (by simp [h]), fsmStep, h]
  rw [decodeBody]
  cases hl : opLddesc s with
  | error e => exact ⟨1, by rw [load, decLoadStep, hl]; rfl⟩
  | ok t =>
    have check (n : Nat) : engineRun (n + 2) s = engineRun n (decCheckStep (t.withSt .dCheck)) := by
      rw [load, decLoadStep, hl]; rfl
    rcases Nat.lt_or_ge t.totalBits.toNat t.setBits.toNat with h1 | h1
    · refine ⟨2, ?_⟩
      simp only [checkParams_param h1, check, decCheckStep, checkParams_param (s := t.withSt .dCheck) h1]
      rfl
    rcases Nat.lt_or_ge t.cfg.nmax t.totalBits.toNat with h2 | h2
    · refine ⟨2, ?_⟩
      simp only [checkParams_capacity h1 h2, check, decCheckStep, checkParams_capacity (s := t.withSt .dCheck) h1 h2]
      rfl
    · obtain ⟨n, hrun⟩ := decodeLoop_engineRun (decodeFuel (opSeed t)) (opSeed t)
      refine ⟨n + 3, ?_⟩
      simp only [checkParams_ok h1 h2, hrun, check, decCheckStep, checkParams_ok (s := t.withSt .dCheck) h1 h2]
      rfl

/-- ENCODE's body is its four states, or the first alone where the capacity check fails (R136, R137). -/
theorem encodeBody_engineRun {s : State} (h : s.st = .ePack) : ∃ n, encodeBody s = engineRun n s := by
  rcases opPack_cases s with ho | ⟨-, ho⟩
  · exact ⟨1, by simp [encodeBody, ho, engineRun, engineMove, fsmStep, h, encPackStep]; rfl⟩
  · exact ⟨4, by simp [encodeBody, ho, engineRun, engineMove, fsmStep, h, encPackStep, encCountStep, encHashStep,
      encStoreStep, Except.map, conclude_ok]; rfl⟩

/-- The effect of a command from the state its issue leaves to its end, as `exec` runs it (R93, R136, R163). -/
def commandBody : Instr → State → State
  | .pack => packStep
  | .unpack => unpackStep
  | .hash => hashStep
  | .popcnt => popcntStep
  | .first => firstStep
  | .next => nextStep
  | .lddesc => lddescStep
  | .stdesc => stdescStep
  | .encode => encodeBody
  | .decode => decodeBody

theorem exec_eq_runCommand (i : Instr) (s : State) : exec i s = runCommand i (commandBody i) s := by
  cases i <;> rfl

/-- Every command's body is a run of the engine from its entry state. -/
theorem commandBody_engineRun (i : Instr) {s : State} (h : s.st = entry i) :
    ∃ n, commandBody i s = engineRun n s := by
  have primitive (hd : s.st ≠ .dAdv) (hb : commandBody i s = fsmStep s) : ∃ n, commandBody i s = engineRun n s :=
    ⟨1, by rw [hb, engineRun, engineRun, engineMove_other hd]⟩
  cases i with
  | encode => exact encodeBody_engineRun h
  | decode => exact decodeBody_engineRun h
  | _ => exact primitive (by simp [h, entry]) (by rw [fsmStep, h]; rfl)

theorem exec_busy (i : Instr) {s : State} (h : s.busy = true) : exec i s = .next (s.answer .refused) := by
  rw [exec_eq_runCommand, runCommand_busy _ _ h]

/-- A command on an idle block: its issue, a run of the engine, and the planned cancel write if it is still to come. -/
theorem exec_idle (i : Instr) {s : State} (h : s.busy = false) :
    ∃ n, exec i s = .next (cancelLands (engineRun n (performWrite cmdOffset (encode i) s))) := by
  rw [performWrite_cmd_idle _ h, accepted_eq, exec_eq_runCommand, runCommand_idle _ _ h]
  obtain ⟨n, hn⟩ := commandBody_engineRun i (s := { s with
    cmd := encode i, done := false, exh := false, matched := false, err := .none, cancelReq := false
    count := if i = .decode then 0 else s.count, busy := true, st := entry i, reply := some .okayWrite }) rfl
  exact ⟨n, by rw [hn]⟩

end Sys2Proof.Machine
end

section
/-! PROOFS. A step keeps what everything its moves are made of keeps (20_memory.md R72). -/

namespace Sys2Proof.Machine

/-- `P` is kept by everything that a move of the host or of the engine is made of. -/
structure MoveClosed (P : State → Prop) : Prop where
  script : ∀ s rest, P s → P { s with host := rest }
  plan : ∀ s q, P s → P (planCancel q s)
  answer : ∀ s r, P s → P (s.answer r)
  write : ∀ s off v, P s → P (performWrite off v s)
  lands : ∀ s, P s → P (cancelLands s)
  engine : ∀ s, P s → P (engineMove s)
  reset : ∀ s contents, P s → P (performReset contents s)

namespace MoveClosed

variable {P : State → Prop} (hP : MoveClosed P)
include hP

theorem engineRun (n : Nat) {s : State} (h : P s) : P (Sys2Proof.engineRun n s) := by
  induction n generalizing s with
  | zero => exact h
  | succ n ih => exact ih (hP.engine s h)

theorem exec {i : Instr} {s t : State} (h : P s) (ht : exec i s = .next t) : P t := by
  cases hb : s.busy with
  | true =>
    rw [exec_busy i hb] at ht
    cases ht
    exact hP.answer s _ h
  | false =>
    obtain ⟨n, hn⟩ := exec_idle i hb
    rw [hn] at ht
    cases ht
    exact hP.lands _ (hP.engineRun n (hP.write s _ _ h))

theorem runWord {w : Word} {s t : State} (h : P s) (ht : runWord w s = .next t) : P t := by
  unfold Machine.runWord at ht
  cases hd : decode w with
  | ok i => rw [hd] at ht; exact hP.exec h ht
  | error e =>
    rw [hd] at ht
    cases ht
    unfold illegalCommand
    split
    · exact hP.write s _ _ h
    · exact hP.lands _ (hP.write s _ _ h)

theorem perform {m : Move} {s t : State} (h : P s) (ht : perform m s = .next t) : P t := by
  cases m with
  | read off => cases ht; exact hP.answer s _ h
  | write off v => cases ht; exact hP.write s off v h
  | engine => cases ht; exact hP.engine s h
  | reset contents => cases ht; exact hP.reset s contents h
  | command w q => exact hP.runWord (hP.plan s q h) ht

/-- What every move keeps, every step keeps. -/
theorem step {s t : State} (h : P s) (ht : step s = .next t) : P t := by
  unfold Machine.step takeMove at ht
  cases hs : s.host with
  | nil => rw [hs] at ht; cases ht; exact hP.engine s h
  | cons m rest => rw [hs] at ht; exact hP.perform (hP.script s rest h) ht

end MoveClosed

end Sys2Proof.Machine
end

section
/-! PROOFS. A host write, said once: what each kind of entry comes to. -/

namespace Sys2Proof.Machine

theorem issue_cases (w : Word) (s : State) :
    (∃ i, decode w = .ok i ∧ issue w s = beginCommand i { clearOutcome s with cmd := w }) ∨
    issue w s = { clearOutcome s with cmd := w, err := .illegal, done := true } := by
  unfold issue
  cases decode w with
  | ok i => exact .inl ⟨i, rfl, rfl⟩
  | error e => exact .inr rfl

/-- CMD is mapped at offset 0 only (R61). -/
theorem mapOffset_cmd {cfg : Config} {off : Offset} (ha : off.toNat % 8 = 0)
    (h : mapOffset cfg off = some (.reg .cmd)) : off = cmdOffset := by
  unfold mapOffset at h
  dsimp only at h
  split_ifs at h
  case pos =>
    simp only [Option.map_eq_some_iff, PortEntry.reg.injEq, exists_eq_right] at h
    have h0 : off.toNat / 8 = 0 := by
      unfold regAt at h
      split at h <;> simp_all
    exact BitVec.eq_of_toNat_eq (show off.toNat = 0 by omega)
  all_goals cases h

/-- What a write transaction leaves, one constructor per kind of entry (R61, R62). -/
inductive WriteEffect (s : State) (off : Offset) (v : Word) : State → Prop where
  | refused : WriteEffect s off v (s.answer .refused)
  | ctrl : WriteEffect s off v ((writeCtrl v s).answer .okayWrite)
  | issue (idle : s.busy = false) (h : off = cmdOffset) : WriteEffect s off v ((issue v s).answer .okayWrite)
  | register (idle : s.busy = false) (T K F B L r0 r1 r2 : Word) :
      WriteEffect s off v { s with
        totalBits := T, setBits := K, fingerprint := F, byteCount := B, drecLen := L, drec0 := r0, drec1 := r1
        drec2 := r2, reply := some .okayWrite }
  | buf (idle : s.busy = false) {w : Nat} (h : w < windowWords s.cfg) :
      WriteEffect s off v
        { s with buf := bufWriteBytes s.buf (8 * w) (le64 v), reply := some .okayWrite }

theorem performWrite_effect (off : Offset) (v : Word) (s : State) : WriteEffect s off v (performWrite off v s) := by
  rcases performWrite_cases off v s with h | ⟨e, he, h⟩ <;> rw [h]
  · exact .refused
  obtain ⟨ha, hm, hr, hb⟩ := checkWrite_ok he
  by_cases hc : e = .reg .ctrl
  · subst hc; exact .ctrl
  have idle : s.busy = false := by simpa using mt hb hc
  cases e with
  | bufWord w => exact .buf idle (mapOffset_bufWord hm)
  | candWord w => cases hr
  | reg r =>
    cases r with
    | cmd => exact .issue idle (mapOffset_cmd ha hm)
    | ctrl => exact absurd rfl hc
    | status | cap | acc | count | len => cases hr
    | totalBits | setBits | fingerprint | byteCount | drecLen | drec0 | drec1 | drec2 =>
      exact .register idle _ _ _ _ _ _ _ _

theorem performWrite_ok {s : State} {off : Offset} {e : PortEntry} (v : Word) (h : checkWrite s off = .ok e) :
    performWrite off v s = (writeEntry v s e).answer .okayWrite := by
  rw [performWrite, hostWrite, h]

theorem performWrite_error {s : State} {off : Offset} {e : PortError} (v : Word) (h : checkWrite s off = .error e) :
    performWrite off v s = s.answer .refused := by
  rw [performWrite, hostWrite, h]

theorem hostRead_ok {s : State} {off : Offset} {e : PortEntry} (h : checkRead s off = .ok e) :
    hostRead s off = .okayRead (readEntry s e) := by
  rw [hostRead, h]

/-- A word that decodes to a command is that command's word (R90). -/
theorem eq_encode_of_decode {w : Word} {i : Instr} (h : decode w = .ok i) : w = encode i := by
  unfold decode at h
  split_ifs at h with hz
  have hlow : (w.extractLsb 7 0).toNat = opcode i := by
    unfold decodeOpcode at h
    split at h <;> cases h <;> simp only [opcode, *]
  have hhigh : (w.extractLsb 63 8).toNat = 0 := by rw [hz]; rfl
  have hop : opcode i < 2 ^ 64 := by cases i <;> decide
  apply BitVec.eq_of_toNat_eq
  rw [encode, BitVec.toNat_ofNat, Nat.mod_eq_of_lt hop]
  rw [BitVec.extractLsb_toNat, Nat.shiftRight_eq_div_pow] at hlow hhigh
  have hw := w.isLt
  omega

end Sys2Proof.Machine
end

section
/-! PROOFS. The invariants of the block: every step keeps them, and reset establishes them (10_state.md R45, R46). -/

namespace Sys2Proof

open Machine

/-! ### The stores -/

theorem Machine.nextSeq_length {c d : BitSeq} (h : nextSeq c = some d) : d.length = c.length := by
  induction c generalizing d with
  | nil => cases h
  | cons b c ih =>
    rw [nextSeq_cons] at h
    cases hn : nextSeq c with
    | some e =>
      simp only [hn, Option.some.injEq] at h
      rw [← h, List.length_cons, List.length_cons, ih hn]
    | none =>
      have hle : popcount c ≤ c.length := List.count_le_length
      simp only [hn, Option.ite_none_right_eq_some, Option.some.injEq] at h
      rw [← h.2, List.length_cons, List.length_cons, firstSeq_length (by omega)]

theorem Machine.packBytes_inputBytes_length (s : State) :
    (packBytes (inputBytes s)).length = 8 * s.byteCount.toNat := by
  rw [packBytes_length, inputBytes, bufReadBytes_length]

/-- The part of `Inv` that is about NMAX and the stores, c and BUF. -/
structure StoresFit (cfg : Config) (c : BitSeq) (buf : List Host.Cell) : Prop where
  config : cfg.wf = true
  cand_fits : c.length ≤ cfg.nmax
  buf_wf : bufWf buf = true
  buf_within : bufWithin cfg buf = true

section
variable {cfg : Config} {c : BitSeq} {buf : List Host.Cell}

theorem StoresFit.with_cand (h : StoresFit cfg c buf) {d : BitSeq} (hd : d.length ≤ cfg.nmax) :
    StoresFit cfg d buf :=
  ⟨h.config, hd, h.buf_wf, h.buf_within⟩

theorem StoresFit.with_bytes (h : StoresFit cfg c buf) {a : Nat} {bytes : List Byte}
    (ha : a + bytes.length ≤ bufBytes cfg) : StoresFit cfg c (bufWriteBytes buf a bytes) :=
  ⟨h.config, h.cand_fits, bufWriteBytes_wf a bytes h.buf_wf, bufWriteBytes_within h.buf_within ha⟩

end

section
variable {s : State}

theorem Inv.stores (h : Inv s) : StoresFit s.cfg s.cand s.buf :=
  ⟨h.config, h.cand_fits, h.buf_wf, h.buf_within⟩

theorem Inv.stores_packed (h : Inv s) (fits : s.byteCount.toNat ≤ bufBytes s.cfg) :
    StoresFit s.cfg (packBytes (inputBytes s)) s.buf := by
  refine h.stores.with_cand ?_
  rw [bufBytes] at fits
  rw [packBytes_inputBytes_length]
  omega

theorem Inv.stores_unpacked (h : Inv s) : StoresFit s.cfg s.cand (bufWriteBytes s.buf 0 (unpackBits s.cand)) := by
  have hlen := h.cand_fits
  refine h.stores.with_bytes ?_
  rw [unpackBits_length, bufBytes]
  omega

theorem Inv.stores_seeded (h : Inv s) (param : s.setBits.toNat ≤ s.totalBits.toNat)
    (capacity : s.totalBits.toNat ≤ s.cfg.nmax) :
    StoresFit s.cfg (firstSeq s.totalBits.toNat s.setBits.toNat) s.buf :=
  h.stores.with_cand ((firstSeq_length param).trans_le capacity)

theorem Inv.stores_advanced (h : Inv s) {c : BitSeq} (hn : nextSeq s.cand = some c) : StoresFit s.cfg c s.buf :=
  h.stores.with_cand ((nextSeq_length hn).trans_le h.cand_fits)

/-! ### An idle block, a running one, and what `Inv` does not look at -/

/-- An idle block has no more to satisfy than its stores do. -/
theorem Inv.of_idle (fit : StoresFit s.cfg s.cand s.buf) (hb : s.busy = false) (hs : s.st = .idle) : Inv s where
  config := fit.config
  busy_iff := by simp [hb, hs]
  busy_clear := by simp [hb]
  matched_iff := by simp [hb]
  cand_fits := fit.cand_fits
  seed_checked := by simp [hs]
  buf_wf := fit.buf_wf
  buf_within := fit.buf_within

theorem Inv.finish (fit : StoresFit s.cfg s.cand s.buf) : Inv s.finish := .of_idle fit rfl rfl

theorem Inv.fail (e : ErrCode) (fit : StoresFit s.cfg s.cand s.buf) : Inv (s.fail e) := .of_idle fit rfl rfl

theorem Inv.st_idle (h : Inv s) (hb : s.busy = false) : s.st = .idle := by
  simpa [hb] using h.busy_iff

theorem Inv.unmatched (h : Inv s) (hs : s.st ≠ .idle) (hne : s.st ≠ .dEmit) : s.matched = false := by
  simpa [hne] using h.matched_iff (h.busy_iff.mpr hs)

/-- A turn after which the command goes on keeps the flags but for MATCH. -/
theorem Inv.of_running {t : State} (h : Inv s) (hs : s.st ≠ .idle) (fit : StoresFit t.cfg t.cand t.buf)
    (flags : (t.busy, t.done, t.exh, t.err) = (s.busy, s.done, s.exh, s.err)) (ht : t.st ≠ .idle)
    (hm : t.matched = true ↔ t.st = .dEmit)
    (seed : t.st = .dSeed → t.setBits.toNat ≤ t.totalBits.toNat ∧ t.totalBits.toNat ≤ t.cfg.nmax) : Inv t := by
  simp only [Prod.mk.injEq] at flags
  obtain ⟨hbusy, hdone, hexh, herr⟩ := flags
  have hb := h.busy_iff.mpr hs
  exact ⟨fit.config, by simp [hbusy, hb, ht], fun _ => by rw [hdone, hexh, herr]; exact h.busy_clear hb, fun _ => hm,
    fit.cand_fits, seed, fit.buf_wf, fit.buf_within⟩

/-- A turn that goes on to a state in which neither the match nor the check of D_CHECK is claimed. -/
theorem Inv.of_plain {t : State} (h : Inv s) (hs : s.st ≠ .idle ∧ s.st ≠ .dEmit)
    (fit : StoresFit t.cfg t.cand t.buf)
    (flags : (t.busy, t.done, t.exh, t.err, t.matched) = (s.busy, s.done, s.exh, s.err, s.matched))
    (ht : t.st ≠ .idle ∧ t.st ≠ .dEmit ∧ t.st ≠ .dSeed) : Inv t := by
  simp only [Prod.mk.injEq] at flags
  obtain ⟨hbusy, hdone, hexh, herr, hmatched⟩ := flags
  obtain ⟨hidle, hnot⟩ := hs
  obtain ⟨hrun, hemit, hseed⟩ := ht
  refine .of_running h hidle fit (by rw [hbusy, hdone, hexh, herr]) hrun ?_ (fun hd => absurd hd hseed)
  simp [hmatched, h.unmatched hidle hnot, hemit]

/-- The fields of the state that `Inv` speaks of. -/
def invFields (s : State) :
    Config × Bool × Bool × Bool × ErrCode × Bool × Sequencer × BitSeq × Word × Word × List Host.Cell :=
  (s.cfg, s.busy, s.done, s.exh, s.err, s.matched, s.st, s.cand, s.setBits, s.totalBits, s.buf)

theorem Inv.of_fields {t : State} (h : Inv s) (ht : invFields t = invFields s) : Inv t := by
  simp only [invFields, Prod.mk.injEq] at ht
  obtain ⟨hcfg, hbusy, hdone, hexh, herr, hmatched, hst, hcand, hset, htotal, hbuf⟩ := ht
  constructor <;> simp only [hcfg, hbusy, hdone, hexh, herr, hmatched, hst, hcand, hset, htotal, hbuf]
  exacts [h.config, h.busy_iff, h.busy_clear, h.matched_iff, h.cand_fits, h.seed_checked, h.buf_wf, h.buf_within]

theorem Inv.cancelArrives (h : Inv s) : Inv (cancelArrives s) := by
  rw [cancelArrives_eq]
  exact h.of_fields rfl

/-! ### The moves -/

theorem Machine.EngineTurn.inv {t : State} (turn : EngineTurn s t) (h : Inv s) : Inv t := by
  cases turn with
  | idle => exact h
  | failed e => exact .fail e h.stores
  | packed _ fits => exact .finish (h.stores_packed fits)
  | unpacked | decEmitted => exact .finish h.stores_unpacked
  | hashed | counted | exhausted | loaded | stored | encStored => exact .finish h.stores
  | seeded _ param capacity => exact .finish (h.stores_seeded param capacity)
  | advanced _ hn => exact .finish (h.stores_advanced hn)
  | encPacked hs fits => exact h.of_plain (by simp [hs]) (h.stores_packed fits) rfl (by simp)
  | encCounted hs | encHashed hs | decLoaded hs | decHashed hs | decDiffered hs =>
    exact h.of_plain (by simp [hs]) h.stores rfl (by simp)
  | decChecked hs param capacity =>
    refine h.of_running (by simp [hs]) h.stores rfl (by simp) ?_ (fun _ => ⟨param, capacity⟩)
    simp [h.unmatched (by simp [hs]) (by simp [hs])]
  | decSeeded hs =>
    obtain ⟨param, capacity⟩ := h.seed_checked hs
    exact h.of_plain (by simp [hs]) (h.stores_seeded param capacity) rfl (by simp)
  | decMatched hs => exact h.of_running (by simp [hs]) h.stores rfl (by simp) (by simp) (by simp)
  | decCancelled | decExhausted => exact .fail _ h.cancelArrives.stores
  | decAdvanced hs _ hn =>
    have hst : (cancelArrives s).st = .dAdv := by rw [cancelArrives_eq]; exact hs
    have hcand : (cancelArrives s).cand = s.cand := by rw [cancelArrives_eq]
    exact h.cancelArrives.of_plain (by simp [hst]) (h.cancelArrives.stores_advanced (hcand ▸ hn)) rfl (by simp)

theorem Inv.issue (h : Inv s) (hb : s.busy = false) (w : Word) : Inv (issue w s) := by
  rcases issue_cases w s with ⟨i, -, hi⟩ | hi <;> rw [hi]
  · have hst : entry i ≠ .idle ∧ entry i ≠ .dEmit ∧ entry i ≠ .dSeed := by cases i <;> decide
    exact ⟨h.config, by simp [hst], by simp, by simp [hst], h.cand_fits, by simp [hst], h.buf_wf, h.buf_within⟩
  · exact .of_idle h.stores hb (h.st_idle hb)

theorem Inv.writeCtrl (h : Inv s) (v : Word) : Inv (writeCtrl v s) where
  config := h.config
  busy_iff := h.busy_iff
  busy_clear hb := by
    obtain ⟨hdone, hexh, herr⟩ := h.busy_clear hb
    exact ⟨by simp [Machine.writeCtrl, hdone], hexh, herr⟩
  matched_iff := h.matched_iff
  cand_fits := h.cand_fits
  seed_checked := h.seed_checked
  buf_wf := h.buf_wf
  buf_within := h.buf_within

theorem Machine.WriteEffect.inv {t : State} {off : Offset} {v : Word} (w : WriteEffect s off v t) (h : Inv s) :
    Inv t := by
  cases w with
  | refused => exact h.of_fields rfl
  | ctrl => exact (h.writeCtrl v).of_fields rfl
  | issue idle => exact (h.issue idle v).of_fields rfl
  | register idle => exact .of_idle h.stores idle (h.st_idle idle)
  | buf idle hw =>
    refine .of_idle (h.stores.with_bytes ?_) idle (h.st_idle idle)
    simp only [windowWords, bufBytes, le64, List.length_map, List.length_range] at hw ⊢
    omega

theorem Inv.resetWith {cfg : Config} {buf : List Host.Cell} (hc : cfg.wf = true) (hwf : bufWf buf = true)
    (hin : bufWithin cfg buf = true) : Inv (State.resetWith cfg buf) :=
  .of_idle ⟨hc, Nat.zero_le _, hwf, hin⟩ rfl rfl

theorem Inv.performReset (hc : s.cfg.wf = true) (contents : List Host.Cell) : Inv (performReset contents s) :=
  (Inv.resetWith hc (bufOfCells_wf s.cfg contents) (bufOfCells_within s.cfg contents)).of_fields rfl

end

theorem inv_moveClosed : MoveClosed Inv where
  script _ _ h := h.of_fields rfl
  plan _ _ h := h.of_fields rfl
  answer _ _ h := h.of_fields rfl
  write s off v h := (performWrite_effect off v s).inv h
  lands s h := by rw [cancelLands_eq]; exact h.of_fields rfl
  engine s h := (engineMove_turn s).inv h
  reset _ contents h := .performReset h.config contents

/-- Settles O40: everything a move is made of keeps the invariants, and a command is a run of the engine. -/
theorem stepKeepsInvariants : Obligations.StepKeepsInvariants :=
  fun _ _ h ht => inv_moveClosed.step h ht

/-- Settles O43: a block after reset is idle, and the contents brought along are put in canonical form. -/
theorem resetMeetsInvariants : Obligations.ResetMeetsInvariants :=
  ⟨.resetWith rfl rfl rfl, fun _ _ hc hwf hin => .resetWith hc hwf hin, fun _ contents hc => .performReset hc contents⟩

end Sys2Proof
end

section
/-! PROOFS. The frame of every command: a run of the engine for it stays inside its row of the table (10_state.md R44). -/

namespace Sys2Proof.Machine

/-- The command whose execution a sequencer state belongs to; none owns IDLE (R40, R92). -/
def owner : Sequencer → Option Instr
  | .idle => none
  | .xPack => some .pack
  | .xUnpack => some .unpack
  | .xHash => some .hash
  | .xPopcnt => some .popcnt
  | .xFirst => some .first
  | .xNext => some .next
  | .xLddesc => some .lddesc
  | .xStdesc => some .stdesc
  | .ePack | .eCount | .eHash | .eStore => some .encode
  | .dLoad | .dCheck | .dSeed | .dHash | .dCmp | .dAdv | .dEmit => some .decode

theorem owner_entry (i : Instr) : owner (entry i) = some i := by cases i <;> rfl

/-- What the engine, working for command `i` from `s` to `t`, leaves as it was: all but the row of `i` (R44). -/
structure RowFrame (i : Instr) (s t : State) : Prop where
  cfg : t.cfg = s.cfg
  ie : t.ie = s.ie
  host : t.host = s.host
  totals : i ≠ .lddesc → i ≠ .encode → i ≠ .decode → (t.totalBits, t.fingerprint) = (s.totalBits, s.fingerprint)
  setBits : i ≠ .popcnt → i ≠ .lddesc → i ≠ .encode → i ≠ .decode → t.setBits = s.setBits
  acc : i ≠ .hash → i ≠ .encode → i ≠ .decode → t.acc = s.acc
  decoding : i ≠ .decode → (t.count, t.matched) = (s.count, s.matched)
  exh : i ≠ .next → i ≠ .decode → t.exh = s.exh
  byteCount : i ≠ .unpack → i ≠ .decode → t.byteCount = s.byteCount
  record : i ≠ .stdesc → i ≠ .encode →
    (t.drec0, t.drec1, t.drec2, t.drecLen) = (s.drec0, s.drec1, s.drec2, s.drecLen)
  cand : i ≠ .pack → i ≠ .first → i ≠ .next → i ≠ .encode → i ≠ .decode → t.cand = s.cand
  buf : i ≠ .unpack → i ≠ .decode → t.buf = s.buf
  tail : ∀ a, t.cand.length / 8 ≤ a → bufRead t.buf a = bufRead s.buf a
  /-- BUF is written by the last turn only; until then the command goes on. -/
  running : t.st ≠ .idle → t.buf = s.buf ∧ owner t.st = some i

theorem RowFrame.refl {i : Instr} {s : State} (h : owner s.st = some i) : RowFrame i s s := by
  constructor <;> simp [h]

/-- Frames compose as long as the command has not ended in between. -/
theorem RowFrame.trans {i : Instr} {s t u : State} (h : RowFrame i s t) (ht : t.st ≠ .idle) (h' : RowFrame i t u) :
    RowFrame i s u := by
  obtain ⟨hbuf, -⟩ := h.running ht
  exact {
    cfg := h'.cfg.trans h.cfg
    ie := h'.ie.trans h.ie
    host := h'.host.trans h.host
    totals := fun h1 h2 h3 => (h'.totals h1 h2 h3).trans (h.totals h1 h2 h3)
    setBits := fun h1 h2 h3 h4 => (h'.setBits h1 h2 h3 h4).trans (h.setBits h1 h2 h3 h4)
    acc := fun h1 h2 h3 => (h'.acc h1 h2 h3).trans (h.acc h1 h2 h3)
    decoding := fun h1 => (h'.decoding h1).trans (h.decoding h1)
    exh := fun h1 h2 => (h'.exh h1 h2).trans (h.exh h1 h2)
    byteCount := fun h1 h2 => (h'.byteCount h1 h2).trans (h.byteCount h1 h2)
    record := fun h1 h2 => (h'.record h1 h2).trans (h.record h1 h2)
    cand := fun h1 h2 h3 h4 h5 => (h'.cand h1 h2 h3 h4 h5).trans (h.cand h1 h2 h3 h4 h5)
    buf := fun h1 h2 => (h'.buf h1 h2).trans (h.buf h1 h2)
    tail := fun a ha => hbuf ▸ h'.tail a ha
    running := fun hu => hbuf ▸ h'.running hu }

/-- One turn stays inside the row of the command that the sequencer state belongs to. -/
theorem EngineTurn.rowFrame {i : Instr} {s t : State} (turn : EngineTurn s t) (hi : owner s.st = some i) :
    RowFrame i s t := by
  cases turn
  case failed => constructor <;> simp
  case idle h => simp [h, owner] at hi
  all_goals
    rename s.st = _ => h
    rw [h] at hi
    cases hi
  case unpacked | decEmitted =>
    constructor
    case tail => exact fun a ha => bufRead_bufWriteBytes_outside (.inr (by simpa using ha))
    all_goals simp
  all_goals constructor <;> simp [cancelArrives_eq, owner]

/-- However many turns the engine takes for a command, they stay inside the command's row. -/
theorem engineRun_rowFrame {i : Instr} (n : Nat) {s : State} (hi : owner s.st = some i) :
    RowFrame i s (engineRun n s) := by
  induction n generalizing s with
  | zero => exact .refl hi
  | succ n ih =>
    have turn := (engineMove_turn s).rowFrame hi
    rcases eq_or_ne (engineMove s).st .idle with hidle | hgoes
    · rwa [engineRun, engineRun_idle n hidle]
    · exact turn.trans hgoes (ih (turn.running hgoes).2)

/-- Settles O35: a command is its issue, a run of the engine inside the command's row, and the cancel write. -/
theorem commandsWriteOnlyTheirRow : Obligations.CommandsWriteOnlyTheirRow := by
  intro i s hb
  obtain ⟨n, hn⟩ := exec_idle i hb
  rw [performWrite_cmd_idle _ hb, accepted_eq, cancelLands_eq] at hn
  have frame := engineRun_rowFrame (i := i) n (s := { s with
    cmd := encode i, done := false, exh := false, matched := false, err := .none, cancelReq := false
    count := if i = .decode then 0 else s.count, busy := true, st := entry i, reply := some .okayWrite })
    (owner_entry i)
  generalize engineRun n _ = u at hn frame
  obtain ⟨cfg, ie, host, totals, setBits, acc, decoding, exh, byteCount, record, cand, buf, tail, -⟩ := frame
  exact ⟨_, hn, cfg, ie, host, fun h1 h2 h3 => by simpa using totals h1 h2 h3, setBits, acc,
    fun hd => by simpa [hd] using decoding hd, exh, byteCount, fun h1 h2 => by simpa using record h1 h2, cand,
    fun h1 h2 a => congrArg (bufRead · a) (buf h1 h2), tail⟩

end Sys2Proof.Machine
end

section
/-! PROOFS. COUNT and CAP: what changes the one, and that nothing changes the other (10_state.md R30, R38). -/

namespace Sys2Proof.Machine

/-! ### COUNT -/

theorem EngineTurn.count_eq {s t : State} (h : EngineTurn s t) :
    t.count = if s.st = .dCmp then s.count + 1 else s.count := by
  cases h <;> simp_all [cancelArrives_eq]

/-- Of all writes only the issue of DECODE changes COUNT (R91). -/
theorem WriteEffect.of_count_ne {s t : State} {off : Offset} {v : Word} (h : WriteEffect s off v t)
    (hc : t.count ≠ s.count) : s.busy = false ∧ off = cmdOffset ∧ v = encode .decode ∧ t.count = 0 := by
  cases h with
  | issue idle ho =>
    rcases issue_cases v s with ⟨i, hd, hi⟩ | hi
    · by_cases hdec : i = .decode
      · subst hdec
        exact ⟨idle, ho, eq_encode_of_decode hd, by rw [hi]; rfl⟩
      · simp [hi, hdec] at hc
    · simp [hi] at hc
  | _ => exact absurd rfl hc

/-- Settles O38, by what a turn of the engine and a host write can come to. -/
theorem countChangesOnlyInDecode : Obligations.CountChangesOnlyInDecode :=
  ⟨fun s => (engineMove_turn s).count_eq, fun s off v => (performWrite_effect off v s).of_count_ne⟩

/-! ### CAP -/

theorem EngineTurn.cfg_eq {s t : State} (h : EngineTurn s t) : t.cfg = s.cfg := by
  cases h <;> simp [cancelArrives_eq]

theorem WriteEffect.cfg_eq {s t : State} {off : Offset} {v : Word} (h : WriteEffect s off v t) : t.cfg = s.cfg := by
  cases h with
  | issue => rcases issue_cases v s with ⟨i, -, hi⟩ | hi <;> rw [hi] <;> rfl
  | _ => rfl

theorem cfg_moveClosed (c : Config) : MoveClosed fun s => s.cfg = c where
  script _ _ h := h
  plan _ _ h := h
  answer _ _ h := h
  write s off v h := (performWrite_effect off v s).cfg_eq.trans h
  lands s h := by rw [cancelLands_eq]; exact h
  engine s h := (engineMove_turn s).cfg_eq.trans h
  reset _ _ h := h

/-- CAP is mapped at 0x18 and may be read at any time (R61, R62). -/
theorem checkRead_cap (s : State) : checkRead s 0x18 = .ok (.reg .cap) := by
  simp [checkRead, locate, mapOffset, bufBase, regAt, readWhileBusy, bind, Except.bind]

/-- CAP is read-only, busy or not (R62). -/
theorem checkWrite_cap (s : State) : checkWrite s 0x18 = .error .readOnly := by
  simp [checkWrite, locate, mapOffset, bufBase, regAt, readOnly, bind, Except.bind]

/-- Settles O41: everything a move is made of keeps NMAX, and the port answers for CAP without asking BUSY. -/
theorem capIsConstant : Obligations.CapIsConstant :=
  ⟨fun s _ ht => (cfg_moveClosed s.cfg).step rfl ht, fun s => hostRead_ok (checkRead_cap s),
    fun s v => performWrite_error v (checkWrite_cap s)⟩

end Sys2Proof.Machine
end

section
/-! PROOFS. The bits of STATUS and CTRL, and a write to CTRL (10_state.md R35, R37). -/

namespace Sys2Proof.Machine

/-- A flag appended below is bit 0, and the bits above it move up by one. -/
theorem getLsbD_append_flagBit {n : Nat} (x : BitVec n) (b : Bool) (i : Nat) :
    (x ++ flagBit b).getLsbD i = if i = 0 then b else x.getLsbD (i - 1) :=
  BitVec.getLsbD_concat x b i

theorem statusWord_getLsbD (s : State) (i : Nat) :
    (statusWord s).getLsbD i =
      if i = 0 then s.busy else if i = 1 then s.done else if i = 2 then s.exh else if i = 3 then s.matched
      else (errCode s.err).getLsbD (i - 4) := by
  rw [statusWord, BitVec.getLsbD_setWidth]
  simp only [getLsbD_append_flagBit]
  rcases i with _ | _ | _ | _ | i
  case succ =>
    have hi (h : (errCode s.err).getLsbD i = true) : i + 4 < 64 := by
      have := BitVec.lt_of_getLsbD h
      omega
    simpa using hi
  all_goals simp

theorem statusWord_err (s : State) : (statusWord s).extractLsb 7 4 = errCode s.err := by
  apply BitVec.eq_of_getLsbD_eq
  intro i hi
  have hi' : i ≤ 3 := by omega
  have h1 : 4 + i ≠ 1 := by omega
  have h2 : 4 + i ≠ 2 := by omega
  have h3 : 4 + i ≠ 3 := by omega
  simp [statusWord_getLsbD, hi', h1, h2, h3]

/-- Settles O15, bit by bit. -/
theorem statusLayout : Obligations.StatusLayout := by
  intro s
  refine ⟨statusWord_getLsbD s 0, statusWord_getLsbD s 1, statusWord_getLsbD s 2, statusWord_getLsbD s 3, ?_, ?_⟩
  · rw [statusWord_err]
    cases s.err <;> rfl
  · intro i hi
    have herr : (errCode s.err).getLsbD (i - 4) = false := BitVec.getLsbD_of_ge _ _ (by omega)
    rw [statusWord_getLsbD, if_neg (by omega), if_neg (by omega), if_neg (by omega), if_neg (by omega), herr]

theorem ctrlWord_getLsbD (s : State) (i : Nat) :
    (ctrlWord s).getLsbD i = if i = 0 then s.ie else if i = 1 then s.cancelReq else false := by
  rw [ctrlWord, BitVec.getLsbD_setWidth, getLsbD_append_flagBit]
  rcases i with _ | _ | i <;> simp [flagBit]

/-- CTRL is mapped at 0x10 and may be written at any time (R37, R62). -/
theorem checkWrite_ctrl (s : State) : checkWrite s 0x10 = .ok (.reg .ctrl) := by
  simp [checkWrite, locate, mapOffset, bufBase, regAt, readOnly, writeWhileBusy, bind, Except.bind]

/-- Settles O17: CTRL's write is accepted in every state, and its three bits act independently. -/
theorem ctrlWriteAndRead : Obligations.CtrlWriteAndRead := by
  intro s v
  refine ⟨?_, ctrlWord_getLsbD s 0, ctrlWord_getLsbD s 1, ?_⟩
  · have cancel : (s.cancelReq || v.getLsbD 1) = if v.getLsbD 1 then true else s.cancelReq := by
      cases v.getLsbD 1 <;> simp
    have ack : (s.done && !v.getLsbD 2) = if v.getLsbD 2 then false else s.done := by
      cases v.getLsbD 2 <;> simp
    rw [performWrite_ok v (checkWrite_ctrl s), writeEntry, writeCtrl, cancel, ack]
    rfl
  · intro i hi
    rw [ctrlWord_getLsbD, if_neg (by omega), if_neg (by omega)]

end Sys2Proof.Machine
end

section
/-! PROOFS. The values after reset; contents of BUF in canonical form stay as they are (10_state.md R46). -/

namespace Sys2Proof.Machine

/-- Writing above every listed cell appends. -/
theorem bufWrite_above {m : List Host.Cell} {a : Nat} {v : Byte} (hm : ∀ c ∈ m, c.1 < a) (hv : v ≠ unlistedByte) :
    bufWrite m a v = m ++ [(a, v)] := by
  induction m with
  | nil => simp [bufWrite, hv]
  | cons c m ih =>
    obtain ⟨b, w⟩ := c
    obtain ⟨hb, hm⟩ := List.forall_mem_cons.mp hm
    simp [bufWrite, Nat.not_lt.mpr hb.le, hb.ne', ih hm]

/-- Writing cells that rise from `n` on, above every listed one, appends them. -/
theorem foldl_bufWrite_rising {l m : List Host.Cell} {n : Nat} (hl : cellsFrom n l = true) (hm : ∀ c ∈ m, c.1 < n) :
    l.foldl (fun m c => bufWrite m c.1 c.2) m = m ++ l := by
  induction l generalizing m n with
  | nil => simp
  | cons c l ih =>
    obtain ⟨a, v⟩ := c
    simp only [cellsFrom, Bool.and_eq_true, decide_eq_true_eq] at hl
    obtain ⟨⟨hna, hv⟩, hl⟩ := hl
    have hma : ∀ c ∈ m, c.1 < a := fun c hc => (hm c hc).trans_le hna
    rw [List.foldl_cons, bufWrite_above hma hv, ih hl, List.append_assoc, List.singleton_append]
    intro c hc
    rcases List.mem_append.mp hc with hc | hc
    · exact Nat.lt_succ_of_lt (hma c hc)
    · rw [List.mem_singleton.mp hc]; exact Nat.lt_succ_self a

/-- Contents that are canonical and lie in BUF are kept as they are. -/
theorem bufOfCells_canonical {cfg : Config} {cells : List Host.Cell} (hwf : bufWf cells = true)
    (hin : bufWithin cfg cells = true) : bufOfCells cfg cells = cells := by
  have hall : cells.filter (fun c => decide (c.1 < bufBytes cfg)) = cells :=
    List.filter_eq_self.mpr (List.all_eq_true.mp hin)
  rw [bufOfCells, hall, foldl_bufWrite_rising hwf (by simp), List.nil_append]

theorem statusWord_resetWith (cfg : Config) (buf : List Host.Cell) : statusWord (State.resetWith cfg buf) = 0 := by
  simp [statusWord, State.resetWith, errCode, flagBit]

/-- Settles O42: the reset values by definition, BUF because its contents are already in canonical form. -/
theorem resetValues : Obligations.ResetValues := by
  refine ⟨?_, ?_⟩
  · intro cfg buf
    exact ⟨rfl, statusWord_resetWith cfg buf, rfl, rfl, rfl, rfl, rfl, rfl, rfl, rfl, rfl, rfl, rfl, rfl, rfl, rfl, rfl,
      rfl, rfl, rfl⟩
  · intro s contents hwf hin
    refine ⟨contents, none, s.host, none, ?_, fun _ => rfl⟩
    rw [performReset, bufOfCells_canonical hwf hin]
    rfl

end Sys2Proof.Machine
end

section
/-! PROOFS. One step is one move (20_memory.md R72). -/

namespace Sys2Proof.Machine

/-- With no script left the engine takes its turn (R231). -/
theorem step_noScript {s : State} (h : s.host = []) : step s = .next (engineMove s) := by
  rw [step, takeMove, h]

/-- With a script the step is its first move, on the state whose script has moved on (R72). -/
theorem step_script {s : State} {m : Move} {rest : List Move} (h : s.host = m :: rest) :
    step s = perform m { s with host := rest } := by
  rw [step, takeMove, h]

/-- In IDLE the engine's turn changes nothing (R40, R207). -/
theorem engineMove_idle {s : State} (h : s.st = .idle) : engineMove s = s := by
  rw [engineMove_other (by simp [h]), fsmStep, h]

/-- With no cancel write planned the engine's turn is the FSM step, D_ADV included. -/
theorem engineMove_neverCancelled {s : State} (h : s.cancelAt = none) : engineMove s = fsmStep s := by
  rw [engineMove, cancelArrives_never h, ite_self]

/-- Settles O6: the step by the first move of the script, the engine's turn by ST and the planned cancel write. -/
theorem stepIsOneMove : Obligations.StepIsOneMove := by
  refine ⟨?_, fun s => step_noScript, ?_, ?_, ?_, ?_, fun s => engineMove_other, fun s => engineMove_neverCancelled⟩
  · intro s hs hidle
    rw [step_noScript hs, engineMove_idle hidle]
  all_goals
    intros
    exact step_script ‹_›

end Sys2Proof.Machine
end

section
/-! PROOFS. The address map as a table of offsets, and what the port makes of a transaction (20_memory.md R60 to
R62). -/

namespace Sys2Proof.Machine

/-! ### The map (R61) -/

/-- The offset of a register word (R61). -/
def PortReg.offset : PortReg → Nat
  | .cmd => 0x00
  | .status => 0x08
  | .ctrl => 0x10
  | .cap => 0x18
  | .totalBits => 0x20
  | .setBits => 0x28
  | .fingerprint => 0x30
  | .acc => 0x38
  | .count => 0x40
  | .len => 0x48
  | .byteCount => 0x50
  | .drecLen => 0x58
  | .drec0 => 0x60
  | .drec1 => 0x68
  | .drec2 => 0x70

/-- The offset of an entry of the map (R61). -/
def PortEntry.offset : PortEntry → Nat
  | .reg r => r.offset
  | .bufWord w => bufBase + 8 * w
  | .candWord w => candBase + 8 * w

/-- Does the map have this entry? A window has `NMAX / 64` words (R61). -/
def PortEntry.present (cfg : Config) : PortEntry → Prop
  | .reg _ => True
  | .bufWord w => w < windowWords cfg
  | .candWord w => w < windowWords cfg

theorem regAt_eq_some_iff {n : Nat} {r : PortReg} : regAt n = some r ↔ 8 * n = r.offset := by
  constructor
  · unfold regAt
    split <;> rintro ⟨⟩ <;> rfl
  · intro h
    have hn : n = r.offset / 8 := by omega
    subst hn
    cases r <;> rfl

theorem regAt_isSome {n : Nat} (h : n ≤ 14) : ∃ r, regAt n = some r := by
  interval_cases n <;> exact ⟨_, rfl⟩

theorem PortReg.offset_le (r : PortReg) : r.offset ≤ 0x70 := by cases r <;> decide

/-- The windows of a legal NMAX lie in their ranges of the map. -/
theorem windowWords_le {cfg : Config} (h : cfg.wf = true) : 8 * windowWords cfg ≤ 0x100000000 := by
  simp only [Config.wf, Bool.and_eq_true, decide_eq_true_eq] at h
  rw [windowWords]
  omega

theorem PortEntry.offset_mod (e : PortEntry) : e.offset % 8 = 0 := by
  cases e with
  | reg r => cases r <;> rfl
  | bufWord w => simp only [PortEntry.offset, bufBase]; omega
  | candWord w => simp only [PortEntry.offset, candBase]; omega

section
variable {s : State} {off : Offset} {e : PortEntry}

theorem locate_eq_ok_iff : locate s off = .ok e ↔ off.toNat % 8 = 0 ∧ mapOffset s.cfg off = some e := by
  unfold locate
  by_cases ha : off.toNat % 8 = 0
  · cases mapOffset s.cfg off <;> simp [ha]
  · simp [ha]

/-- What is found at an offset is an entry of the map, at its own offset. -/
theorem offset_of_locate (h : locate s off = .ok e) : off.toNat = e.offset ∧ e.present s.cfg := by
  obtain ⟨ha, hm⟩ := locate_eq_ok_iff.mp h
  unfold mapOffset at hm
  dsimp only at hm
  split_ifs at hm with hreg hbuf hw hcand hw
  · obtain ⟨r, hr, rfl⟩ := Option.map_eq_some_iff.mp hm
    have := regAt_eq_some_iff.mp hr
    exact ⟨by simp only [PortEntry.offset]; omega, trivial⟩
  all_goals
    cases hm
    exact ⟨by simp only [PortEntry.offset, bufBase, candBase] at *; omega, hw⟩

/-- A register word is found at its offset, whatever NMAX is. -/
theorem locate_reg {r : PortReg} (s : State) (h : off.toNat = r.offset) : locate s off = .ok (.reg r) := by
  have hle := r.offset_le
  have ha := (PortEntry.reg r).offset_mod
  simp only [PortEntry.offset] at ha
  refine locate_eq_ok_iff.mpr ⟨by omega, ?_⟩
  have hr : regAt (off.toNat / 8) = some r := regAt_eq_some_iff.mpr (by omega)
  have hlt : off.toNat < bufBase := by rw [bufBase]; omega
  simp [mapOffset, hlt, hr]

/-- Every entry of the map is found at its offset. -/
theorem locate_of_offset (hc : s.cfg.wf = true) (h : off.toNat = e.offset) (he : e.present s.cfg) :
    locate s off = .ok e := by
  have hwin := windowWords_le hc
  cases e with
  | reg r => exact locate_reg s h
  | bufWord w =>
    simp only [PortEntry.offset, PortEntry.present, bufBase] at h he
    have hbuf : ¬ off.toNat < bufBase := by rw [bufBase]; omega
    have hcand : off.toNat < candBase := by rw [candBase]; omega
    have hw : (off.toNat - bufBase) / 8 = w := by rw [bufBase]; omega
    exact locate_eq_ok_iff.mpr ⟨by omega, by simp [mapOffset, hbuf, hcand, hw, he]⟩
  | candWord w =>
    simp only [PortEntry.offset, PortEntry.present, candBase] at h he
    have hbuf : ¬ off.toNat < bufBase := by rw [bufBase]; omega
    have hcand : ¬ off.toNat < candBase := by rw [candBase]; omega
    have hend : off.toNat < candEnd := by rw [candEnd]; omega
    have hw : (off.toNat - candBase) / 8 = w := by rw [candBase]; omega
    exact locate_eq_ok_iff.mpr ⟨by omega, by simp [mapOffset, hbuf, hcand, hend, hw, he]⟩

/-- The mapped offsets: the fifteen register words and the two windows (R61). -/
def Mapped (cfg : Config) (a : Nat) : Prop :=
  a ≤ 0x70 ∨ (0x100000000 ≤ a ∧ a < 0x100000000 + 8 * (cfg.nmax / 64)) ∨
    (0x200000000 ≤ a ∧ a < 0x200000000 + 8 * (cfg.nmax / 64))

theorem exists_locate_iff (hc : s.cfg.wf = true) :
    (∃ e, locate s off = .ok e) ↔ off.toNat % 8 = 0 ∧ Mapped s.cfg off.toNat := by
  unfold Mapped
  constructor
  · rintro ⟨e, he⟩
    obtain ⟨ho, hp⟩ := offset_of_locate he
    refine ⟨ho ▸ e.offset_mod, ?_⟩
    cases e with
    | reg r => exact .inl (ho ▸ r.offset_le)
    | bufWord w | candWord w =>
      simp only [PortEntry.offset, PortEntry.present, bufBase, candBase, windowWords] at ho hp
      omega
  · rintro ⟨ha, hreg | hbuf | hcand⟩
    · obtain ⟨r, hr⟩ := regAt_isSome (n := off.toNat / 8) (by omega)
      have := regAt_eq_some_iff.mp hr
      exact ⟨_, locate_reg s (r := r) (by omega)⟩
    · exact ⟨.bufWord ((off.toNat - bufBase) / 8), locate_of_offset hc
        (by simp only [PortEntry.offset, bufBase]; omega)
        (by simp only [PortEntry.present, bufBase, windowWords]; omega)⟩
    · exact ⟨.candWord ((off.toNat - candBase) / 8), locate_of_offset hc
        (by simp only [PortEntry.offset, candBase]; omega)
        (by simp only [PortEntry.present, candBase, windowWords]; omega)⟩

/-! ### The access rules (R62) -/

theorem readWhileBusy_iff :
    readWhileBusy e = true ↔ e.offset = 0x08 ∨ e.offset = 0x40 ∨ e.offset = 0x18 ∨ e.offset = 0x10 := by
  cases e with
  | reg r => cases r <;> decide
  | bufWord w | candWord w =>
    simp only [readWhileBusy, PortEntry.offset, bufBase, candBase, Bool.false_eq_true, false_iff]
    omega

theorem writeWhileBusy_iff : writeWhileBusy e = true ↔ e.offset = 0x10 := by
  cases e with
  | reg r => cases r <;> decide
  | bufWord w | candWord w =>
    simp only [writeWhileBusy, PortEntry.offset, bufBase, candBase, Bool.false_eq_true, false_iff]
    omega

theorem readOnly_iff {cfg : Config} (hc : cfg.wf = true) (he : e.present cfg) :
    readOnly e = true ↔
      e.offset = 0x08 ∨ e.offset = 0x18 ∨ e.offset = 0x38 ∨ e.offset = 0x40 ∨ e.offset = 0x48 ∨
        0x200000000 ≤ e.offset := by
  cases e with
  | reg r => cases r <;> decide
  | bufWord w =>
    have hwin := windowWords_le hc
    simp only [PortEntry.present] at he
    simp only [readOnly, PortEntry.offset, bufBase, Bool.false_eq_true, false_iff]
    omega
  | candWord w =>
    simp only [readOnly, PortEntry.offset, candBase, true_iff]
    omega

theorem checkRead_eq_ok_iff :
    checkRead s off = .ok e ↔ locate s off = .ok e ∧ (s.busy = true → readWhileBusy e = true) := by
  unfold checkRead
  cases locate s off with
  | error x => simp [bind, Except.bind]
  | ok e' =>
    rcases eq_or_ne e' e with rfl | hne
    · simp [bind, Except.bind]
    · simp only [bind, Except.bind]
      split_ifs <;> simp [hne]

theorem checkWrite_eq_ok_iff :
    checkWrite s off = .ok e ↔
      locate s off = .ok e ∧ readOnly e = false ∧ (s.busy = true → writeWhileBusy e = true) := by
  unfold checkWrite
  cases locate s off with
  | error x => simp [bind, Except.bind]
  | ok e' =>
    simp only [bind, Except.bind]
    rcases eq_or_ne e' e with rfl | hne
    · cases readOnly e' <;> simp
    · split_ifs <;> simp [hne]

/-! ### The two transactions (R60, R62) -/

theorem hostRead_error {x : PortError} (h : checkRead s off = .error x) : hostRead s off = .refused := by
  rw [hostRead, h]

theorem hostWrite_ok (v : Word) (h : checkWrite s off = .ok e) :
    hostWrite s off v = (.okayWrite, writeEntry v s e) := by
  rw [hostWrite, h]

theorem hostWrite_error {x : PortError} (v : Word) (h : checkWrite s off = .error x) :
    hostWrite s off v = (.refused, s) := by
  rw [hostWrite, h]

theorem hostRead_resp_error_iff : (hostRead s off).resp = .error ↔ ¬ ∃ e, checkRead s off = .ok e := by
  cases h : checkRead s off with
  | ok e => simp [hostRead_ok h, Reply.okayRead]
  | error x => simp [hostRead_error h, Reply.refused]

theorem hostWrite_resp_error_iff (v : Word) :
    (hostWrite s off v).1.resp = .error ↔ ¬ ∃ e, checkWrite s off = .ok e := by
  cases h : checkWrite s off with
  | ok e => simp [hostWrite_ok v h, Reply.okayWrite]
  | error x => simp [hostWrite_error v h, Reply.refused]

/-- An ERROR answer to a read carries no data. -/
theorem hostRead_data_of_error (h : (hostRead s off).resp = .error) : (hostRead s off).data = 0 := by
  cases hc : checkRead s off with
  | ok e => exact absurd ⟨e, hc⟩ (hostRead_resp_error_iff.mp h)
  | error x => rw [hostRead_error hc]; rfl

/-- A write that gets ERROR changes the port's answer alone. -/
theorem performWrite_of_resp_error {v : Word} (h : (hostWrite s off v).1.resp = .error) :
    performWrite off v s = s.answer .refused := by
  cases hc : checkWrite s off with
  | ok e => exact absurd ⟨e, hc⟩ ((hostWrite_resp_error_iff v).mp h)
  | error x => exact performWrite_error v hc

/-- No entry is found and let through exactly when none is at the offset or the one found there is refused. -/
theorem no_entry_iff {P : PortEntry → Prop} {Q : Prop} (hc : s.cfg.wf = true)
    (hQ : ∀ e, locate s off = .ok e → (¬ P e ↔ Q)) :
    (¬ ∃ e, locate s off = .ok e ∧ P e) ↔ off.toNat % 8 ≠ 0 ∨ ¬ Mapped s.cfg off.toNat ∨ Q := by
  rw [← or_assoc, ← not_and_or, ← exists_locate_iff hc]
  by_cases hl : ∃ e, locate s off = .ok e
  · obtain ⟨e, he⟩ := hl
    simp [he, hQ e he]
  · rw [not_exists] at hl
    simp [hl]

end

/-- Settles O10: the checks refuse an offset at which the map has no entry, and one whose entry the access rules do
not let through; those rules are read off the entry's own offset. -/
theorem portErrorsExactly : Obligations.PortErrorsExactly := by
  intro s off hc
  refine ⟨?_, hostRead_data_of_error, rfl, fun v => ⟨?_, performWrite_of_resp_error⟩⟩
  · simp only [hostRead_resp_error_iff, checkRead_eq_ok_iff]
    refine no_entry_iff hc fun e he => ?_
    obtain ⟨ho, -⟩ := offset_of_locate he
    rw [readWhileBusy_iff, ← ho, Classical.not_imp, not_or, not_or, not_or]
  · simp only [hostWrite_resp_error_iff, checkWrite_eq_ok_iff]
    refine no_entry_iff hc fun e he => ?_
    obtain ⟨ho, hp⟩ := offset_of_locate he
    rw [writeWhileBusy_iff, ← Bool.not_eq_true, readOnly_iff hc hp, ← ho, not_and_or, not_not, Classical.not_imp]

/-! ### The register words (R61) -/

theorem hostRead_reg {s : State} {off : Offset} (r : PortReg) (ho : off.toNat = r.offset)
    (hb : s.busy = true → readWhileBusy (.reg r) = true) : hostRead s off = .okayRead (readEntry s (.reg r)) :=
  hostRead_ok (checkRead_eq_ok_iff.mpr ⟨locate_reg s ho, hb⟩)

theorem performWrite_reg {s : State} {off : Offset} (r : PortReg) (v : Word) (ho : off.toNat = r.offset)
    (hr : readOnly (.reg r) = false) (idle : s.busy = false) :
    performWrite off v s = (writeEntry v s (.reg r)).answer .okayWrite :=
  performWrite_ok v (checkWrite_eq_ok_iff.mpr ⟨locate_reg s ho, hr, by simp [idle]⟩)

/-- Settles O11: each register is found at its offset, and four may be read while busy. -/
theorem registerReads : Obligations.RegisterReads := by
  intro s
  refine ⟨fun idle => ?_, ?_⟩
  · have read {off : Offset} (r : PortReg) (ho : off.toNat = r.offset) :
        hostRead s off = .okayRead (readEntry s (.reg r)) := hostRead_reg r ho (by simp [idle])
    exact ⟨read .cmd rfl, read .totalBits rfl, read .setBits rfl, read .fingerprint rfl, read .acc rfl, read .len rfl,
      read .byteCount rfl, read .drecLen rfl, read .drec0 rfl, read .drec1 rfl, read .drec2 rfl⟩
  · exact ⟨hostRead_reg .status rfl fun _ => rfl, hostRead_reg .ctrl rfl fun _ => rfl,
      hostRead_reg .cap rfl fun _ => rfl, hostRead_reg .count rfl fun _ => rfl⟩

/-- Settles O12: each plain register is found at its offset, writable on an idle block. -/
theorem registerWrites : Obligations.RegisterWrites := by
  intro s v idle
  exact ⟨performWrite_reg .totalBits v rfl rfl idle, performWrite_reg .setBits v rfl rfl idle,
    performWrite_reg .fingerprint v rfl rfl idle, performWrite_reg .byteCount v rfl rfl idle,
    performWrite_reg .drecLen v rfl rfl idle, performWrite_reg .drec0 v rfl rfl idle,
    performWrite_reg .drec1 v rfl rfl idle, performWrite_reg .drec2 v rfl rfl idle⟩

end Sys2Proof.Machine
end

section
/-! PROOFS. The BUF and the CAND window, bit by bit, and their agreement after PACK and ENCODE (20_memory.md R66 to
R68). -/

namespace Sys2Proof.Machine

/-! ### The bits of a window word -/

theorem bufWindowWord_getLsbD {s : State} {w j i : Nat} (hj : j < 8) (hi : i < 8) :
    (bufWindowWord s w).getLsbD (8 * j + i) = (bufRead s.buf (8 * w + j)).getLsbD i := by
  have hlt : 8 * j + i < 64 := by omega
  rw [bufWindowWord, fromLe64, BitVec.getLsbD_ofNat, bytesValue_testBit _ _ _ hi]
  simp [hlt, bufReadBytes, List.getD, hj]

theorem candWindowWord_getLsbD {s : State} {w b : Nat} (hb : b < 64) :
    (candWindowWord s w).getLsbD b = s.cand.getD (64 * w + b) false := by
  rw [candWindowWord, BitVec.getLsbD_ofNat, bitsValue_testBit]
  simp [hb, List.getD, List.getElem?_drop]

theorem le64_length (v : Word) : (le64 v).length = 8 := by simp [le64]

theorem le64_getElem {v : Word} {j : Nat} (h : j < (le64 v).length) : (le64 v)[j] = (v >>> (8 * j)).setWidth 8 := by
  simp [le64]

/-- Settles O13: the entry at the offset is the window word, whose bytes are read and written one by one. -/
theorem bufWindow : Obligations.BufWindow := by
  intro s w off hc idle hwf hw ho
  have hl : locate s off = .ok (.bufWord w) := locate_of_offset hc ho hw
  have hread := hostRead_ok (checkRead_eq_ok_iff.mpr ⟨hl, by simp [idle]⟩)
  have hwrite (v : Word) := performWrite_ok v (checkWrite_eq_ok_iff.mpr ⟨hl, rfl, by simp [idle]⟩)
  have hbuf (v : Word) : (performWrite off v s).buf = bufWriteBytes s.buf (8 * w) (le64 v) := by rw [hwrite]; rfl
  refine ⟨by rw [hread]; rfl, fun j i hj hi => ?_, fun v => ⟨fun j hj => ?_, fun a ha => ?_, ?_⟩⟩
  · rw [hread]
    exact bufWindowWord_getLsbD hj hi
  · have hj' : j < (le64 v).length := by rwa [le64_length]
    rw [hbuf, bufRead_bufWriteBytes_inside hwf hj', le64_getElem]
  · rw [hbuf, bufRead_bufWriteBytes_outside (by rwa [le64_length])]
  · rw [hwrite]
    rfl

/-- Settles O14: the entry at the offset is the read-only window word, which shows c. -/
theorem candWindow : Obligations.CandWindow := by
  intro s w off hc idle hw ho
  have hl : locate s off = .ok (.candWord w) := locate_of_offset hc ho hw
  have hread := hostRead_ok (checkRead_eq_ok_iff.mpr ⟨hl, by simp [idle]⟩)
  refine ⟨by rw [hread]; rfl, fun b hb => ?_, fun v => performWrite_of_resp_error ?_⟩
  · rw [hread]
    refine (candWindowWord_getLsbD hb).trans ?_
    split_ifs with h
    · exact List.getD_eq_getElem _ _ h
    · exact List.getD_eq_default _ _ (Nat.le_of_not_lt h)
  · rw [hostWrite_resp_error_iff]
    rintro ⟨e, he⟩
    obtain ⟨he, hro, -⟩ := checkWrite_eq_ok_iff.mp he
    cases hl.symm.trans he
    cases hro

/-! ### After PACK and ENCODE (R68) -/

/-- Bit `8j + i` of a packed sequence is bit `i` of byte `j`, 0 beyond the end (R110). -/
theorem packBytes_getD (bytes : List Byte) (j : Nat) {i : Nat} (hi : i < 8) :
    (packBytes bytes).getD (8 * j + i) false = (bytes.getD j 0).getLsbD i := by
  induction bytes generalizing j with
  | nil => simp [packBytes_nil]
  | cons b rest ih =>
    rw [packBytes_cons]
    cases j with
    | zero => rw [List.getD_append _ _ _ _ (by rw [packByte_length]; omega), Nat.mul_zero, Nat.zero_add,
        packByte_getD b i hi]; rfl
    | succ j =>
      rw [List.getD_append_right _ _ _ _ (by rw [packByte_length]; omega), packByte_length,
        show 8 * (j + 1) + i - 8 = 8 * j + i by omega, ih]
      rfl

/-- The sequence packed from the input bytes shows BUF below LEN, and 0 from there on. -/
theorem packBytes_inputBytes_getD (s : State) (j : Nat) {i : Nat} (hi : i < 8) :
    (packBytes (inputBytes s)).getD (8 * j + i) false =
      ((bufRead s.buf j).getLsbD i && decide (j < s.byteCount.toNat)) := by
  rw [packBytes_getD _ _ hi, inputBytes, bufReadBytes]
  by_cases hj : j < s.byteCount.toNat <;> simp [List.getD, hj]

/-- PACK and ENCODE that fit end with the input bytes packed into c, and leave BUF as it was (R112, R136). -/
theorem exec_pack_encode {i : Instr} {s : State} (hi : i = .pack ∨ i = .encode) (idle : s.busy = false)
    (fits : s.byteCount.toNat ≤ bufBytes s.cfg) :
    ∃ t, exec i s = .next t ∧ t.cand = packBytes (inputBytes s) ∧ t.buf = s.buf := by
  rw [exec_eq_runCommand, runCommand_idle _ _ idle]
  refine ⟨_, rfl, ?_⟩
  rw [cancelLands_eq]
  rcases hi with rfl | rfl
  · simp only [commandBody, packStep]
    rw [opPack_fits (by exact fits)]
    exact ⟨rfl, rfl⟩
  · simp only [commandBody]
    rw [encodeBody_fits (by exact fits)]
    exact ⟨rfl, rfl⟩

/-- Settles O49: both windows show the bytes of BUF, and c holds the first BYTE_COUNT of them. -/
theorem packedWindowsAgree : Obligations.PackedWindowsAgree := by
  intro i s hi idle fits
  obtain ⟨t, ht, hcand, hbuf⟩ := exec_pack_encode hi idle fits
  refine ⟨t, ht, fun w b hb => ?_⟩
  have hbit : b % 8 < 8 := Nat.mod_lt _ (by decide)
  have hbyte : b / 8 < 8 := by omega
  have hpos : 64 * w + b = 8 * (8 * w + b / 8) + b % 8 := by omega
  have hlen : 64 * w + b < t.cand.length ↔ 8 * w + b / 8 < s.byteCount.toNat := by
    rw [hcand, packBytes_inputBytes_length]; omega
  have hwin := bufWindowWord_getLsbD (s := t) (w := w) hbyte hbit
  rw [Nat.div_add_mod, hbuf] at hwin
  rw [candWindowWord_getLsbD hb, hwin, decide_eq_decide.mpr hlen, hcand, hpos, packBytes_inputBytes_getD s _ hbit]

end Sys2Proof.Machine
end

section
/-! PROOFS. The decoder as arithmetic on the word, and what a write to CMD comes to (30_encoding.md R90 to R95). -/

namespace Sys2Proof.Machine

/-! ### The decoder (R90, R92, R95) -/

@[simp] theorem encode_toNat (i : Instr) : (encode i).toNat = opcode i := by cases i <;> rfl

theorem decode_encode (i : Instr) : decode (encode i) = .ok i := by cases i <;> rfl

theorem eq_encode_iff {w : Word} {i : Instr} : w = encode i ↔ w.toNat = opcode i := by
  rw [← encode_toNat, BitVec.toNat_inj]

/-- A word is the command whose opcode it is as a number, field ZERO included (R90). -/
theorem decode_eq_ok_iff {w : Word} {i : Instr} : decode w = .ok i ↔ w.toNat = opcode i := by
  rw [← eq_encode_iff]
  exact ⟨eq_encode_of_decode, fun h => h ▸ decode_encode i⟩

/-- The opcodes are the numbers 1 to 10, each of them used (R92). -/
theorem exists_opcode_iff {n : Nat} : (∃ i, n = opcode i) ↔ 1 ≤ n ∧ n ≤ 10 := by
  constructor
  · rintro ⟨i, rfl⟩
    cases i <;> decide
  · rintro ⟨hlo, hhi⟩
    interval_cases n
    exacts [⟨.pack, rfl⟩, ⟨.unpack, rfl⟩, ⟨.hash, rfl⟩, ⟨.popcnt, rfl⟩, ⟨.first, rfl⟩, ⟨.next, rfl⟩, ⟨.lddesc, rfl⟩,
      ⟨.stdesc, rfl⟩, ⟨.encode, rfl⟩, ⟨.decode, rfl⟩]

theorem decode_isOk_iff {w : Word} : (∃ i, decode w = .ok i) ↔ 1 ≤ w.toNat ∧ w.toNat ≤ 10 := by
  simp only [decode_eq_ok_iff, exists_opcode_iff]

/-- The decoder is total: what is no command is illegal (R95). -/
theorem decode_ok_or_error (w : Word) : (∃ i, decode w = .ok i) ∨ ∃ e, decode w = .error e := by
  cases decode w with
  | ok i => exact .inl ⟨i, rfl⟩
  | error e => exact .inr ⟨e, rfl⟩

theorem decode_illegal {w : Word} (h : w.toNat = 0 ∨ 10 < w.toNat) : ∃ e, decode w = .error e := by
  refine (decode_ok_or_error w).resolve_left fun hok => ?_
  obtain ⟨hlo, hhi⟩ := decode_isOk_iff.mp hok
  omega

/-- R95 on the two fields of a word is R95 on the word as a number. -/
theorem illegal_of_fields {w : Word}
    (h : w.extractLsb 63 8 ≠ 0 ∨ w.extractLsb 7 0 = 0 ∨ 10 < (w.extractLsb 7 0).toNat) :
    w.toNat = 0 ∨ 10 < w.toNat := by
  by_contra! hw
  have hlow : (w.extractLsb 7 0).toNat = w.toNat := by
    rw [BitVec.extractLsb_toNat, Nat.shiftRight_eq_div_pow]
    omega
  have hhigh : (w.extractLsb 63 8).toNat = 0 := by
    rw [BitVec.extractLsb_toNat, Nat.shiftRight_eq_div_pow]
    omega
  rcases h with h | h | h
  · exact h (BitVec.eq_of_toNat_eq hhigh)
  · exact hw.1 (by rw [← hlow, h]; rfl)
  · omega

/-- Settles O1: decoding is comparing the word with the opcodes, and those are 1 to 10. -/
theorem decodeExactlyTheTenWords : Obligations.DecodeExactlyTheTenWords :=
  ⟨fun i _ => decode_encode i, fun _ _ => decode_eq_ok_iff, fun _ => decode_isOk_iff.symm⟩

/-- Settles O2: eight fixed words, each decoded. -/
theorem opcodeMapWords : Obligations.OpcodeMapWords := by
  unfold Obligations.OpcodeMapWords
  decide

/-! ### The write to CMD (R91) -/

/-- An illegal word on an idle block ends in its own write (R95). -/
theorem performWrite_cmd_illegal {s : State} {w : Word} (h : w.toNat = 0 ∨ 10 < w.toNat) (idle : s.busy = false) :
    performWrite cmdOffset w s =
      { s with cmd := w, done := true, exh := false, matched := false, err := .illegal, cancelReq := false
               reply := some .okayWrite } := by
  obtain ⟨e, he⟩ := decode_illegal h
  rw [performWrite_cmd_idle w idle, issue, he]
  rfl

/-- A command's word on an idle block starts the command (R91). -/
theorem performWrite_cmd_encode (i : Instr) {s : State} (idle : s.busy = false) :
    performWrite cmdOffset (encode i) s =
      { s with cmd := encode i, done := false, exh := false, matched := false, err := .none, cancelReq := false
               count := if i = .decode then 0 else s.count, busy := true, st := entry i
               reply := some .okayWrite } := by
  rw [performWrite_cmd_idle _ idle, accepted_eq]

theorem opcode_eq_ten_iff {i : Instr} : opcode i = 10 ↔ i = .decode := by cases i <;> decide

/-- Settles O3: a busy block refuses the write; an idle one takes it as an illegal word or as a command's. -/
theorem issueOnCmdWrite : Obligations.IssueOnCmdWrite := by
  intro s v
  refine ⟨performWrite_cmd_busy v, fun idle => ⟨fun hv => ?_, fun i hi => ?_⟩⟩
  · exact performWrite_cmd_illegal (illegal_of_fields hv) idle
  · obtain rfl := eq_encode_iff.mpr hi
    simp only [encode_toNat, opcode_eq_ten_iff]
    exact performWrite_cmd_encode i idle

/-- Settles O4: a word that is none of the ten opcodes decodes to an error, and issue makes that the command's end. -/
theorem illegalWordEndsAtOnce : Obligations.IllegalWordEndsAtOnce :=
  ⟨decode_ok_or_error, fun _ _ hw idle => ⟨decode_illegal hw, performWrite_cmd_illegal hw idle⟩⟩

/-! ### The step that runs a command word (R93; logs 3 to 6) -/

theorem runWord_decoded {w : Word} {i : Instr} (s : State) (h : decode w = .ok i) : runWord w s = exec i s := by
  rw [runWord, h]

/-- A number of the opcode table stands for the command its 64-bit word decodes to. -/
theorem decode_of_decodeTableWord {w : Nat} {i : Instr} (h : decodeTableWord 64 w = some i) :
    decode (BitVec.ofNat 64 (w % 2 ^ 64)) = .ok i := by
  rw [decodeTableWord, if_pos (Nat.mod_lt w (by decide))] at h
  split at h
  · cases h; assumption
  · cases h

/-- Planning the cancel write that is planned already changes nothing. -/
theorem planCancel_planned (s : State) : planCancel s.cancelAt s = s := by
  rw [planCancel, ite_self]

/-- Settles O5: the step performs the move at the head of the script, and the move runs its decoded word. -/
theorem stepRunsDecodedCommand : Obligations.StepRunsDecodedCommand := by
  refine ⟨fun s w q rest i hs hd => ?_, fun s w i hw => ?_⟩
  · rw [step_script hs, perform, runWord_decoded _ hd]
    rfl
  · rw [step_script (s := s.withFetchWord 64 w) rfl, perform, runWord_decoded _ (decode_of_decodeTableWord hw)]
    exact congrArg (exec i) (planCancel_planned s)

end Sys2Proof.Machine
end

section
/-! PROOFS. Every command ends: its run of the engine comes to IDLE, DECODE's because its candidates rise in the order
of R12 (30_encoding.md R93; 44_decoder.md R163, R174). -/

namespace Sys2Proof.Machine

/-! ### The candidates rise -/

/-- A sequence as a number, index 0 the most significant bit, so that the order of R12 is the order of numbers. -/
def seqValue : BitSeq → Nat
  | [] => 0
  | b :: c => b.toNat * 2 ^ c.length + seqValue c

theorem seqValue_lt (c : BitSeq) : seqValue c < 2 ^ c.length := by
  induction c with
  | nil => decide
  | cons b c ih => cases b <;> simp [seqValue, Nat.pow_succ] <;> omega

/-- `next` gives a greater sequence (R153). -/
theorem seqValue_lt_of_nextSeq {c d : BitSeq} (h : nextSeq c = some d) : seqValue c < seqValue d := by
  induction c generalizing d with
  | nil => cases h
  | cons b c ih =>
    rw [nextSeq_cons] at h
    cases hn : nextSeq c with
    | some e =>
      simp only [hn, Option.some.injEq] at h
      rw [← h, seqValue, seqValue, nextSeq_length hn]
      exact Nat.add_lt_add_left (ih hn) _
    | none =>
      have hle : popcount c ≤ c.length := List.count_le_length
      simp only [hn, Option.ite_none_right_eq_some, Bool.and_eq_true, Bool.not_eq_true', Option.some.injEq] at h
      obtain ⟨⟨rfl, -⟩, rfl⟩ := h
      have hlt := seqValue_lt c
      rw [seqValue, seqValue, firstSeq_length (by omega), Bool.toNat_false, Bool.toNat_true]
      omega

/-! ### Every command ends -/

@[simp] theorem conclude_st (s : State) (r : Except ErrCode State) : (s.conclude r).st = .idle := by
  cases r <;> rfl

theorem nextStep_ends (s : State) : (nextStep s).st = .idle := by
  cases hn : nextSeq s.cand with
  | none => rw [nextStep_exhausted hn]; rfl
  | some c => rw [nextStep_next hn]; rfl

/-- A loop with a comparison for every value from the candidate's up is ended within it, not by the bound (log 12). -/
theorem decodeLoop_ends {fuel : Nat} {s : State} (h : 2 ^ s.cand.length ≤ fuel + seqValue s.cand) :
    (decodeLoop fuel s).st = .idle := by
  induction fuel generalizing s with
  | zero =>
    have := seqValue_lt s.cand
    omega
  | succ fuel ih =>
    rcases decodeLoop_cases fuel s with ⟨-, hl⟩ | ⟨-, hl⟩ | ⟨-, -, hl⟩ | ⟨c, -, hn, -, hl⟩ <;> rw [hl]
    · exact conclude_st _ _
    · rfl
    · rfl
    · have hrise := seqValue_lt_of_nextSeq hn
      have hc : 2 ^ c.length ≤ fuel + seqValue c := by rw [nextSeq_length hn]; omega
      exact ih hc

theorem decodeBody_ends (s : State) : (decodeBody s).st = .idle := by
  rcases eq_or_ne s.drecLen 24 with hr | hr
  · rw [decodeBody_record hr]
    split_ifs
    · rfl
    · rfl
    · exact decodeLoop_ends (Nat.le_add_right _ _)
  · rw [decodeBody_format hr]
    rfl

/-- The body of a command, from whatever state, ends with the engine in IDLE. -/
theorem commandBody_ends (i : Instr) (s : State) : (commandBody i s).st = .idle := by
  cases i with
  | pack | unpack | first | lddesc | encode => exact conclude_st _ _
  | hash | popcnt | stdesc => rfl
  | next => exact nextStep_ends s
  | decode => exact decodeBody_ends s

/-! ### Commands on an idle block (R93) -/

/-- The whole of a primitive command is the FSM step of its entry state. -/
theorem commandBody_primitive {i : Instr} {s : State} (he : i ≠ .encode) (hd : i ≠ .decode) (h : s.st = entry i) :
    commandBody i s = fsmStep s := by
  cases i with
  | encode => exact absurd rfl he
  | decode => exact absurd rfl hd
  | _ => rw [fsmStep, h]; rfl

/-- On an idle block a command is its body from the write of its word, and the planned cancel write. -/
theorem exec_idle_body (i : Instr) {s : State} (idle : s.busy = false) :
    exec i s = .next (cancelLands (commandBody i (performWrite cmdOffset (encode i) s))) := by
  rw [exec_eq_runCommand, runCommand_idle _ _ idle, performWrite_cmd_encode i idle]

theorem performWrite_cmd_encode_st (i : Instr) {s : State} (idle : s.busy = false) :
    (performWrite cmdOffset (encode i) s).st = entry i := by
  rw [performWrite_cmd_encode i idle]

/-- Settles O8: the body of a primitive command is the FSM step of the state its issue enters, and it ends in IDLE. -/
theorem primitiveIsOneFsmStep : Obligations.PrimitiveIsOneFsmStep := by
  intro i s he hd idle
  have hbody := commandBody_primitive he hd (performWrite_cmd_encode_st i idle)
  refine ⟨?_, ?_⟩
  · exact (congrArg State.st hbody).symm.trans (commandBody_ends i _)
  · rw [exec_idle_body i idle, hbody]
    rfl

/-- Settles O9: the body is a run of the engine from the state that issue enters, and it ends in IDLE. -/
theorem commandIsIssueThenEngine : Obligations.CommandIsIssueThenEngine := by
  intro i s idle
  obtain ⟨n, hn⟩ := commandBody_engineRun i (performWrite_cmd_encode_st i idle)
  refine ⟨n, ?_, ?_⟩
  · exact (congrArg State.st hn).symm.trans (commandBody_ends i _)
  · rw [exec_idle_body i idle, hn]
    rfl

end Sys2Proof.Machine
end

section
/-! PROOFS. `pack` and `unpack`, bit by bit and as inverses, and the commands PACK, UNPACK and DECODE by the bytes they
read and store (40_bitpacker.md R110 to R116; 44_decoder.md R169). -/

namespace Sys2Proof.Machine

/-! ### The bits of packed and unpacked sequences (R110, R111) -/

theorem unpackBits_getElem_getLsbD {c : BitSeq} {j i : Nat} (hj : j < (unpackBits c).length) (hi : i < 8) :
    (unpackBits c)[j].getLsbD i = c.getD (8 * j + i) false := by
  simp only [unpackBits, List.getElem_map, List.getElem_range]
  exact unpackByte_getLsbD c j i hi

/-- Settles O47, by the bits of `pack` and of `unpack`. -/
theorem packAndUnpackBits : Obligations.PackAndUnpackBits := by
  refine ⟨fun bytes => ⟨packBytes_length bytes, fun j i hj hi => ?_⟩,
    fun c _ => ⟨unpackBits_length c, fun j i hj hi => unpackBits_getElem_getLsbD hj hi⟩⟩
  rw [packBytes_getD _ _ hi, List.getD_eq_getElem _ _ hj]

/-! ### `pack` and `unpack` are inverse (R116) -/

theorem unpackBits_packBytes (bytes : List Byte) : unpackBits (packBytes bytes) = bytes := by
  have hlen : (unpackBits (packBytes bytes)).length = bytes.length := by
    rw [unpackBits_length, packBytes_length]; omega
  refine List.ext_getElem hlen fun j hj hj' => BitVec.eq_of_getLsbD_eq fun i hi => ?_
  rw [unpackBits_getElem_getLsbD hj hi, packBytes_getD _ _ hi, List.getD_eq_getElem _ _ hj']

theorem packBytes_unpackBits {c : BitSeq} (hc : c.length % 8 = 0) : packBytes (unpackBits c) = c := by
  have hlen : (packBytes (unpackBits c)).length = c.length := by
    rw [packBytes_length, unpackBits_length]; omega
  refine List.ext_getElem hlen fun n hn hn' => ?_
  have hbit : n % 8 < 8 := Nat.mod_lt _ (by decide)
  have hbyte : n / 8 < (unpackBits c).length := by rw [unpackBits_length]; omega
  have key := packBytes_getD (unpackBits c) (n / 8) hbit
  rwa [List.getD_eq_getElem _ _ hbyte, unpackBits_getElem_getLsbD hbyte hbit, Nat.div_add_mod,
    List.getD_eq_getElem _ _ hn, List.getD_eq_getElem _ _ hn'] at key

theorem popcount_packByte (b : Byte) : popcount (packByte b) = ((List.range 8).filter fun i => b.getLsbD i).length := by
  rw [popcount, packByte, List.count_eq_countP, List.countP_map, List.countP_eq_length_filter]
  simp [Function.comp_def]

theorem popcount_packBytes (bytes : List Byte) :
    popcount (packBytes bytes) = (bytes.map fun b => ((List.range 8).filter fun i => b.getLsbD i).length).sum := by
  induction bytes with
  | nil => rfl
  | cons b rest ih =>
    rw [List.map_cons, List.sum_cons, ← ih, ← popcount_packByte, packBytes_cons]
    exact List.count_append

/-! ### The whole state PACK and UNPACK leave (R114, R115) -/

theorem inputBytes_eq (s : State) : inputBytes s = (List.range s.byteCount.toNat).map fun j => bufRead s.buf j := by
  simp [inputBytes, bufReadBytes]

/-- A command other than DECODE whose body fails on the state its issue leaves changes nothing but STATUS (R197). -/
theorem exec_fails {i : Instr} {s : State} {e : ErrCode} (hd : i ≠ .decode) (idle : s.busy = false)
    (h : commandBody i (performWrite cmdOffset (encode i) s) = State.fail e (performWrite cmdOffset (encode i) s)) :
    exec i s = .next (ended i e s) := by
  rw [exec_idle_body i idle, h, performWrite_cmd_encode i idle, fail_settles e rfl, if_neg hd]
  rfl

/-- Settles O19: the capacity check fails and only STATUS tells, or the input bytes are packed. -/
theorem packResult : Obligations.PackResult := by
  intro s idle
  have accepted := performWrite_cmd_encode .pack idle
  split_ifs with full
  · refine exec_fails (by decide) idle ?_
    rw [commandBody, packStep, opPack_full (by rw [accepted]; exact full), conclude_error]
  · rw [exec_idle_body _ idle, commandBody, packStep, accepted, opPack_fits (by exact Nat.le_of_not_lt full),
      conclude_ok, finish_settles rfl, ← inputBytes_eq]
    rfl

/-- Settles O20: LEN is not a number of bytes and only STATUS tells, or the bytes are stored and counted. -/
theorem unpackResult : Obligations.UnpackResult := by
  intro s idle
  have accepted := performWrite_cmd_encode .unpack idle
  split_ifs with odd
  · refine exec_fails (by decide) idle ?_
    rw [commandBody, unpackStep, opUnpack_odd (by rw [accepted]; exact odd), conclude_error]
  · rw [exec_idle_body _ idle, commandBody, unpackStep, accepted, opUnpack_bytes (by exact not_not.mp odd),
      conclude_ok, finish_settles rfl]
    rfl

/-! ### PACK and then UNPACK (R116) -/

/-- Bytes written where they were read from leave every byte of BUF as it was. -/
theorem bufRead_bufWriteBytes_bufReadBytes {m : List Host.Cell} (a n : Nat) (hm : bufWf m = true) (b : Nat) :
    bufRead (bufWriteBytes m a (bufReadBytes m a n)) b = bufRead m b := by
  by_cases hb : a ≤ b ∧ b < a + n
  · obtain ⟨j, rfl⟩ := Nat.exists_eq_add_of_le hb.1
    rw [bufRead_bufWriteBytes_inside hm (by rw [bufReadBytes_length]; omega)]
    simp [bufReadBytes]
  · exact bufRead_bufWriteBytes_outside (by rw [bufReadBytes_length]; omega)

/-- PACK that fits and then UNPACK store the input bytes back where they came from. -/
theorem exec_pack_unpack {s : State} (idle : s.busy = false) (fits : s.byteCount.toNat ≤ s.cfg.nmax / 8) :
    ∃ t u, exec .pack s = .next t ∧ exec .unpack t = .next u ∧ u.err = .none ∧ u.byteCount = s.byteCount ∧
      u.buf = bufWriteBytes s.buf 0 (inputBytes s) := by
  have hpack := packResult s idle
  rw [if_neg (Nat.not_lt.mpr fits), ← inputBytes_eq] at hpack
  have hunpack := unpackResult { ended .pack .none s with cand := packBytes (inputBytes s) } rfl
  have hlen := packBytes_inputBytes_length s
  rw [if_neg (by simp [hlen])] at hunpack
  refine ⟨_, _, hpack, hunpack, rfl, ?_, ?_⟩
  · simp [hlen]
  · simp [unpackBits_packBytes, ended]

/-- Settles O48: the two functions are inverse, and so are the commands, whose bytes lie where BUF has them. -/
theorem packUnpackInverse : Obligations.PackUnpackInverse := by
  refine ⟨unpackBits_packBytes, fun c => packBytes_unpackBits, packBytes_length, popcount_packBytes,
    fun s idle hwf fits => ?_⟩
  obtain ⟨t, u, ht, hu, herr, hcount, hbuf⟩ := exec_pack_unpack idle fits
  exact ⟨t, u, ht, hu, herr, hcount, fun a => hbuf ▸ bufRead_bufWriteBytes_bufReadBytes 0 _ hwf a⟩

/-! ### The output of UNPACK and DECODE (R113, R169) -/

/-- How a command with an output ends, from what BUF and BYTE_COUNT were: c is stored as bytes and they are counted, or
an error is raised and both are as before. -/
inductive OutputEnds (buf : List Host.Cell) (byteCount : Word) (t : State) : Prop where
  | stored (err : t.err = .none) (aligned : t.cand.length % 8 = 0)
      (count : t.byteCount = BitVec.ofNat 64 (t.cand.length / 8))
      (bytes : t.buf = bufWriteBytes buf 0 (unpackBits t.cand))
  | failed (err : t.err ≠ .none) (count : t.byteCount = byteCount) (bytes : t.buf = buf)

theorem unpackStep_outputEnds {s : State} (clear : s.err = .none) : OutputEnds s.buf s.byteCount (unpackStep s) := by
  rw [unpackStep]
  rcases opUnpack_cases s with ho | ⟨hlen, ho⟩ <;> rw [ho]
  · exact .failed (by simp [conclude_error]) rfl rfl
  · exact .stored clear hlen rfl rfl

/-- A loop of DECODE that came to its end ended in its output, cancelled, or exhausted (R167, R168). -/
theorem decodeLoop_outputEnds {fuel : Nat} {s : State} (clear : s.err = .none) (ends : (decodeLoop fuel s).st = .idle) :
    OutputEnds s.buf s.byteCount (decodeLoop fuel s) := by
  induction fuel generalizing s with
  | zero => cases ends
  | succ fuel ih =>
    rcases decodeLoop_cases fuel s with ⟨-, hl⟩ | ⟨-, hl⟩ | ⟨-, -, hl⟩ | ⟨c, -, -, -, hl⟩
    · rw [hl]
      exact unpackStep_outputEnds (s := { s with acc := fp s.cand, count := s.count + 1, matched := true }) clear
    · rw [hl]
      exact .failed (by simp) (by simp [cancelArrives_eq]) (by simp [cancelArrives_eq])
    · rw [hl]
      exact .failed (by simp) (by simp [cancelArrives_eq]) (by simp [cancelArrives_eq])
    · rw [hl] at ends ⊢
      simpa [cancelArrives_eq] using ih (by simpa [cancelArrives_eq] using clear) ends

theorem decodeBody_outputEnds {s : State} (clear : s.err = .none) : OutputEnds s.buf s.byteCount (decodeBody s) := by
  have ends := decodeBody_ends s
  rcases eq_or_ne s.drecLen 24 with hr | hr
  · rw [decodeBody_record hr] at ends ⊢
    split_ifs at ends ⊢
    · exact .failed (by simp) rfl rfl
    · exact .failed (by simp) rfl rfl
    · exact decodeLoop_outputEnds (s := { s with
        totalBits := s.drec0, setBits := s.drec1, fingerprint := s.drec2
        cand := firstSeq s.drec0.toNat s.drec1.toNat }) clear ends
  · rw [decodeBody_format hr]
    exact .failed (by simp) rfl rfl

theorem commandBody_outputEnds {i : Instr} {s : State} (hi : i = .unpack ∨ i = .decode) (clear : s.err = .none) :
    OutputEnds s.buf s.byteCount (commandBody i s) := by
  rcases hi with rfl | rfl
  · exact unpackStep_outputEnds clear
  · exact decodeBody_outputEnds clear

/-- UNPACK and DECODE, from issue to completion and with the planned cancel write landed. -/
theorem exec_outputEnds {i : Instr} {s : State} (hi : i = .unpack ∨ i = .decode) (idle : s.busy = false) :
    ∃ t, exec i s = .next t ∧ OutputEnds s.buf s.byteCount t := by
  have accepted := performWrite_cmd_encode i idle
  have body := commandBody_outputEnds hi (s := performWrite cmdOffset (encode i) s) (by rw [accepted])
  refine ⟨_, exec_idle_body i idle, ?_⟩
  rw [cancelLands_eq]
  rw [accepted] at body ⊢
  cases body with
  | stored err aligned count bytes => exact .stored err aligned count bytes
  | failed err count bytes => exact .failed err count bytes

/-- Settles O36: the bytes stored are those of `unpack`, whose bits are the elements of c. -/
theorem bytesStored : Obligations.BytesStored := by
  intro i s hi idle hwf
  obtain ⟨t, ht, output⟩ := exec_outputEnds hi idle
  refine ⟨t, ht, ?_⟩
  cases output with
  | stored err aligned count bytes =>
    refine ⟨fun _ => ⟨aligned, count, fun j b hj hb => ?_⟩, fun h => absurd err h⟩
    have hj' : j < (unpackBits t.cand).length := by rwa [unpackBits_length]
    have hread := bufRead_bufWriteBytes_inside (a := 0) hwf hj'
    rw [Nat.zero_add] at hread
    rw [bytes, hread, unpackBits_getElem_getLsbD hj' hb]
  | failed err count bytes => exact ⟨fun h => absurd h err, fun _ => ⟨count, fun a => by rw [bytes]⟩⟩

end Sys2Proof.Machine
end

section
/-! PROOFS. The fingerprint: its recurrence, its one-to-one step, the parity in its bit 0, and the command HASH
(41_fingerprint.md R120 to R126). -/

namespace Sys2Proof.Machine

/-! ### The recurrence (R120) -/

/-- Bits are consumed in increasing index order, so the last bit takes the last step. -/
@[simp] theorem fp_append_singleton (c : BitSeq) (b : Bool) : fp (c ++ [b]) = fpStep (fp c) b := by
  simp [fp]

theorem mul_fpPrime_toNat (a : Word) : (a * fpPrime).toNat = a.toNat * 1099511628211 % 2 ^ 64 :=
  BitVec.toNat_mul a fpPrime

theorem fpStep_toNat (a : Word) (b : Bool) :
    (fpStep a b).toNat = ((a.toNat ^^^ b.toNat) * 1099511628211) % 2 ^ 64 := by
  have hbit : ((BitVec.ofBool b).setWidth 64).toNat = b.toNat := by cases b <;> rfl
  rw [fpStep, mul_fpPrime_toNat, BitVec.toNat_xor, hbit]

/-- Settles O50: the last bit takes the last step, and a step is the recurrence as numbers. -/
theorem fingerprintRecurrence : Obligations.FingerprintRecurrence :=
  ⟨rfl, fun c b => by rw [fp_append_singleton, fpStep_toNat]⟩

/-! ### Each step is one-to-one (R125) -/

/-- PRIME is odd; this is its inverse modulo `2^64`. -/
theorem isUnit_fpPrime : IsUnit fpPrime := IsUnit.of_mul_eq_one 0xCE965057AFF6957B (by decide)

theorem mul_fpPrime_injective : Function.Injective (· * fpPrime) := isUnit_fpPrime.mul_left_injective

/-- For a fixed bit: exclusive or with a constant is one-to-one, and so is multiplication by PRIME. -/
theorem fpStep_injective (x : Bool) : Function.Injective (fpStep · x) := fun _ _ h =>
  (BitVec.xor_left_inj _).mp (mul_fpPrime_injective h)

/-- For a fixed accumulator: the two bits lead to different accumulators. -/
theorem fpStep_not_ne (a : Word) (x : Bool) : fpStep a x ≠ fpStep a (!x) := by
  intro h
  have hbit := (BitVec.xor_right_inj _).mp (mul_fpPrime_injective h)
  cases x <;> exact absurd hbit (by decide)

/-- A common suffix neither makes nor breaks a collision. -/
theorem fp_append_right_inj {p q : BitSeq} (r : BitSeq) : fp (p ++ r) = fp (q ++ r) ↔ fp p = fp q := by
  induction r using List.reverseRecOn with
  | nil => simp
  | append_singleton r x ih =>
    rw [← List.append_assoc, ← List.append_assoc, fp_append_singleton, fp_append_singleton,
      (fpStep_injective x).eq_iff, ih]

/-- Settles O51: the differing bit makes the accumulators differ, and the common suffix keeps them so. -/
theorem fingerprintSingleBit : Obligations.FingerprintSingleBit := by
  refine ⟨fun a b x h => fpStep_injective x h, fun p r x h => ?_, fun p q r _ => fp_append_right_inj r⟩
  rw [fp_append_right_inj, fp_append_singleton, fp_append_singleton] at h
  exact fpStep_not_ne (fp p) x h

/-! ### Bit 0 is the parity (R126) -/

/-- PRIME is odd, so bit 0 of a product by it is bit 0 of the other factor. -/
theorem mul_fpPrime_getLsbD_zero (a : Word) : (a * fpPrime).getLsbD 0 = a.getLsbD 0 := by
  have hparity : a.toNat * 1099511628211 % 2 ^ 64 % 2 = a.toNat % 2 := by omega
  rw [← BitVec.testBit_toNat, ← BitVec.testBit_toNat, Nat.testBit_zero, Nat.testBit_zero, mul_fpPrime_toNat,
    hparity]

theorem fpStep_getLsbD_zero (a : Word) (b : Bool) : (fpStep a b).getLsbD 0 = (a.getLsbD 0 ^^ b) := by
  have hbit : ((BitVec.ofBool b).setWidth 64).getLsbD 0 = b := by cases b <;> rfl
  rw [fpStep, mul_fpPrime_getLsbD_zero, BitVec.getLsbD_xor, hbit]

theorem popcount_append_singleton (c : BitSeq) (b : Bool) : popcount (c ++ [b]) = popcount c + b.toNat := by
  cases b <;> simp [popcount]

/-- Settles O52, by appending one bit at a time: OFFSET is odd, and each set bit turns both sides over. -/
theorem fingerprintParity : Obligations.FingerprintParity := by
  intro c
  induction c using List.reverseRecOn with
  | nil => decide
  | append_singleton c b ih =>
    rw [fp_append_singleton, fpStep_getLsbD_zero, ih, popcount_append_singleton]
    cases b with
    | false => simp
    | true =>
      rw [Bool.xor_true, Bool.toNat_true, ← decide_not, decide_eq_decide]
      omega

/-! ### The whole state HASH leaves (R123) -/

/-- Settles O21: `op_hash` writes ACC alone and cannot fail, and the command ends by `finish`. -/
theorem hashResult : Obligations.HashResult := by
  intro s idle
  rw [exec_idle_body _ idle, performWrite_cmd_encode _ idle, commandBody, hashStep, opHash, finish_settles rfl]
  rfl

end Sys2Proof.Machine
end

section
/-! PROOFS. The encode sequencer: the whole state POPCNT, STDESC and ENCODE leave, the descriptor that ENCODE makes, and
ENCODE as a sequence of primitive commands (42_encoder.md R131 to R140). -/

namespace Sys2Proof.Machine

/-! ### The whole state POPCNT and STDESC leave (R131, R133) -/

/-- Settles O22: `op_popcnt` writes SET_BITS alone and cannot fail, and the command ends by `finish`. -/
theorem popcntResult : Obligations.PopcntResult := by
  intro s idle
  rw [exec_idle_body _ idle, performWrite_cmd_encode _ idle, commandBody, popcntStep, opPopcnt, finish_settles rfl]
  rfl

/-- Settles O26: `op_stdesc` writes DREC and DREC_LEN, checks nothing, and the command ends by `finish`. -/
theorem stdescResult : Obligations.StdescResult := by
  intro s idle
  rw [exec_idle_body _ idle, performWrite_cmd_encode _ idle, commandBody, stdescStep, opStdesc, finish_settles rfl]
  rfl

/-! ### The four states of ENCODE (R137) -/

theorem encPackStep_full {s : State} (h : bufBytes s.cfg < s.byteCount.toNat) : encPackStep s = s.fail .capacity := by
  rw [encPackStep, opPack_full h]

theorem encPackStep_fits {s : State} (h : s.byteCount.toNat ≤ bufBytes s.cfg) :
    encPackStep s = { s with cand := packBytes (inputBytes s), st := .eCount } := by
  rw [encPackStep, opPack_fits h]

/-- Settles O45: the step of each state is one datapath operation, or two, and the next ST; only E_PACK can fail. -/
theorem encodeSequencerTable : Obligations.EncodeSequencerTable := by
  intro s
  refine ⟨fun h => ?_, fun h => ?_, fun h => ?_, fun h => ?_⟩ <;> rw [fsmStep, h]
  · split_ifs with full
    · exact encPackStep_full full
    · exact encPackStep_fits (Nat.le_of_not_lt full)
  · rfl
  · rfl
  · rfl

/-! ### The whole state ENCODE leaves (R136) -/

/-- Settles O27: the capacity check fails and only STATUS tells, or the packed input is measured, counted, hashed and
described. -/
theorem encodeResult : Obligations.EncodeResult := by
  intro s idle
  have accepted := performWrite_cmd_encode .encode idle
  split_ifs with full
  · refine exec_fails (by decide) idle ?_
    rw [commandBody, encodeBody_full (by rw [accepted]; exact full)]
  · rw [exec_idle_body _ idle, commandBody, accepted, encodeBody_fits (by exact Nat.le_of_not_lt full),
      finish_settles rfl, packBytes_inputBytes_length, ← inputBytes_eq]
    rfl

/-! ### The descriptor (R139) -/

/-- BUF has NMAX bits, so input bytes that fit in it have at most NMAX bits, and a register holds that number (R39). -/
theorem inputBits_le {cfg : Config} {n : Nat} (hc : cfg.wf = true) (fits : n ≤ cfg.nmax / 8) :
    8 * n ≤ cfg.nmax ∧ cfg.nmax < 2 ^ 64 := by
  simp only [Config.wf, Bool.and_eq_true, decide_eq_true_eq] at hc
  omega

theorem popcount_packBytes_inputBytes_le (s : State) :
    popcount (packBytes (inputBytes s)) ≤ 8 * s.byteCount.toNat :=
  packBytes_inputBytes_length s ▸ List.count_le_length

/-- Settles O58: the numbers of the packed input fit their registers, so the registers hold them as they are. -/
theorem encodeMakesDescriptor : Obligations.EncodeMakesDescriptor := by
  intro s hc idle fits
  obtain ⟨hcap, hword⟩ := inputBits_le hc fits
  have hones := popcount_packBytes_inputBytes_le s
  have htotal : (BitVec.ofNat 64 (8 * s.byteCount.toNat)).toNat = 8 * s.byteCount.toNat :=
    (BitVec.toNat_ofNat _ 64).trans (Nat.mod_eq_of_lt (by omega))
  have hset : (BitVec.ofNat 64 (popcount (packBytes (inputBytes s)))).toNat = popcount (packBytes (inputBytes s)) :=
    (BitVec.toNat_ofNat _ 64).trans (Nat.mod_eq_of_lt (by omega))
  have hencode := encodeResult s idle
  rw [if_neg (Nat.not_lt.mpr fits), ← inputBytes_eq] at hencode
  refine ⟨_, hencode, rfl, ?_, ?_, htotal, htotal.trans_le hcap, hset, rfl, rfl, rfl, rfl, rfl⟩
  · exact (hset.trans_le hones).trans_eq htotal.symm
  · exact (congrArg (· % 8) htotal).trans (Nat.mul_mod_right 8 _)

/-! ### ENCODE as primitive commands (R140) -/

/-- The host copies LEN to TOTAL_BITS and issues POPCNT: what E_COUNT does in one step. -/
theorem exec_popcnt_copyLen {s : State} (idle : s.busy = false) :
    exec .popcnt (performWrite 0x20 (hostRead s 0x48).data s) =
      .next { ended .popcnt .none s with totalBits := lenWord s, setBits := BitVec.ofNat 64 (popcount s.cand) } := by
  rw [hostRead_reg .len rfl (by simp [idle]), performWrite_reg .totalBits _ rfl rfl idle]
  exact popcntResult _ idle

/-- The host copies ACC to FINGERPRINT and issues STDESC: what E_STORE does in one step. -/
theorem exec_stdesc_copyAcc {s : State} (idle : s.busy = false) :
    exec .stdesc (performWrite 0x30 (hostRead s 0x38).data s) =
      .next { ended .stdesc .none s with
        fingerprint := s.acc, drec0 := s.totalBits, drec1 := s.setBits, drec2 := s.acc, drecLen := 24 } := by
  rw [hostRead_reg .acc rfl (by simp [idle]), performWrite_reg .fingerprint _ rfl rfl idle]
  exact stdescResult _ idle

/-- Settles O59: each command with its copy adds one of ENCODE's operations, and `ended` leaves the block alike but for
CMD. -/
theorem encodeEqualsPrimitives : Obligations.EncodeEqualsPrimitives := by
  intro s idle fits never
  have hpack := packResult s idle
  have hencode := encodeResult s idle
  rw [if_neg (Nat.not_lt.mpr fits), ← inputBytes_eq] at hpack hencode
  refine ⟨_, _, _, _, _, hpack, exec_popcnt_copyLen (by rfl), hashResult _ (by rfl), exec_stdesc_copyAcc (by rfl),
    hencode, ?_⟩
  simp only [ended, lenWord, State.len, packBytes_inputBytes_length, never]
  rfl

end Sys2Proof.Machine
end

section
/-! PROOFS. `next` in closed form: the sequences it is Exhausted on, the suffix it replaces on all others, and what it
keeps (43_permutation.md R148, R154). -/

namespace Sys2Proof.Machine

/-! ### Set bits -/

@[simp] theorem popcount_nil : popcount [] = 0 := rfl

@[simp] theorem popcount_cons (b : Bool) (c : BitSeq) : popcount (b :: c) = popcount c + b.toNat := by
  cases b <;> simp [popcount]

@[simp] theorem popcount_append (c d : BitSeq) : popcount (c ++ d) = popcount c + popcount d := List.count_append

/-! ### The least and the greatest arrangement -/

/-- `1^x ++ 0^y`, the form R148 gives for the sequences that `next` is Exhausted on. -/
def onesZeros (x y : Nat) : BitSeq := List.replicate x true ++ List.replicate y false

theorem onesZeros_zero_succ (y : Nat) : onesZeros 0 (y + 1) = false :: onesZeros 0 y := rfl

theorem onesZeros_succ (x y : Nat) : onesZeros (x + 1) y = true :: onesZeros x y := rfl

@[simp] theorem onesZeros_length (x y : Nat) : (onesZeros x y).length = x + y := by simp [onesZeros]

@[simp] theorem popcount_onesZeros (x y : Nat) : popcount (onesZeros x y) = x := by
  simp [onesZeros, popcount, List.count_replicate]

@[simp] theorem popcount_firstSeq (n k : Nat) : popcount (firstSeq n k) = k := by
  simp [firstSeq, popcount, List.count_replicate]

theorem firstSeq_isArrangement {n k : Nat} (h : k ≤ n) : isArrangement n k (firstSeq n k) :=
  ⟨firstSeq_length h, popcount_firstSeq n k⟩

theorem onesZeros_isArrangement {n k : Nat} (h : k ≤ n) : isArrangement n k (onesZeros k (n - k)) :=
  ⟨(onesZeros_length k (n - k)).trans (Nat.add_sub_cancel' h), popcount_onesZeros k (n - k)⟩

/-! ### Exhausted (R148) -/

theorem nextSeq_onesZeros (x y : Nat) : nextSeq (onesZeros x y) = none := by
  induction x with
  | zero =>
    induction y with
    | zero => rfl
    | succ y ih =>
      rw [onesZeros_zero_succ, nextSeq_cons, ih]
      cases y <;> rfl
  | succ x ih =>
    rw [onesZeros_succ, nextSeq_cons, ih]
    rfl

theorem nextSeq_eq_none_iff {c : BitSeq} : nextSeq c = none ↔ ∃ x y, c = onesZeros x y := by
  constructor
  · exact fun h => ⟨_, _, pivot_none_shape ((nextSeq_none_iff_pivot c).mp h)⟩
  · rintro ⟨x, y, rfl⟩
    exact nextSeq_onesZeros x y

/-! ### The step (R148) -/

/-- The last 0 that stands before a 1 becomes 1, and what follows it becomes the least arrangement with a one fewer. -/
theorem nextSeq_carry (p : BitSeq) (k z : Nat) :
    nextSeq (p ++ false :: onesZeros (k + 1) z) = some (p ++ true :: firstSeq (k + 1 + z) k) := by
  induction p with
  | nil =>
    rw [List.nil_append, List.nil_append, nextSeq_cons, nextSeq_onesZeros, onesZeros_length, popcount_onesZeros]
    rfl
  | cons b p ih => rw [List.cons_append, nextSeq_cons, ih, List.cons_append]

/-- Every sequence is of one of the two forms. -/
theorem onesZeros_or_carry (c : BitSeq) :
    (∃ x y, c = onesZeros x y) ∨ ∃ p k z, c = p ++ false :: onesZeros (k + 1) z := by
  induction c with
  | nil => exact .inl ⟨0, 0, rfl⟩
  | cons b c ih =>
    rcases ih with ⟨x, y, rfl⟩ | ⟨p, k, z, rfl⟩
    · cases b with
      | true => exact .inl ⟨x + 1, y, rfl⟩
      | false =>
        cases x with
        | zero => exact .inl ⟨0, y + 1, rfl⟩
        | succ k => exact .inr ⟨[], k, y, rfl⟩
    · exact .inr ⟨b :: p, k, z, rfl⟩

theorem nextSeq_eq_some_iff {c d : BitSeq} :
    nextSeq c = some d ↔
      ∃ p k z, c = p ++ false :: onesZeros (k + 1) z ∧ d = p ++ true :: firstSeq (k + 1 + z) k := by
  constructor
  · intro h
    rcases onesZeros_or_carry c with ⟨x, y, rfl⟩ | ⟨p, k, z, rfl⟩
    · rw [nextSeq_onesZeros] at h
      cases h
    · rw [nextSeq_carry, Option.some.injEq] at h
      exact ⟨p, k, z, rfl, h.symm⟩
  · rintro ⟨p, k, z, rfl, rfl⟩
    exact nextSeq_carry p k z

/-- R148 writes the suffix `0 1^a 0^b` with its 0 as a sequence of its own, and `a` for `k + 1`. -/
theorem exists_carry_iff {c : BitSeq} :
    (∃ p a b, 1 ≤ a ∧ c = p ++ [false] ++ List.replicate a true ++ List.replicate b false) ↔
      ∃ p k z, c = p ++ false :: onesZeros (k + 1) z := by
  constructor
  · rintro ⟨p, a, b, ha, rfl⟩
    obtain ⟨k, rfl⟩ := Nat.exists_eq_add_of_le' ha
    exact ⟨p, k, b, by simp [onesZeros]⟩
  · rintro ⟨p, k, z, rfl⟩
    exact ⟨p, k + 1, z, by omega, by simp [onesZeros]⟩

/-- Settles O53: a sequence has one of the two forms, `next` tells which, and its answer is known on both. -/
theorem nextClosedForm : Obligations.NextClosedForm := by
  refine ⟨fun p a b ha => ?_, fun c => ?_, fun c => nextSeq_eq_none_iff⟩
  · obtain ⟨k, rfl⟩ := Nat.exists_eq_add_of_le' ha
    have hz : k + 1 + b - k = b + 1 := by omega
    simpa [onesZeros, firstSeq, hz] using nextSeq_carry p k b
  · refine exists_carry_iff.trans ⟨?_, (onesZeros_or_carry c).resolve_left⟩
    rintro ⟨p, k, z, rfl⟩ hshape
    have hnone := nextSeq_eq_none_iff.mpr hshape
    rw [nextSeq_carry] at hnone
    cases hnone

/-- Settles O54: the suffix that is replaced and the new one have the same length and as many ones. -/
theorem nextKeepsLengthAndCount : Obligations.NextKeepsLengthAndCount := by
  intro c d h
  refine ⟨nextSeq_length h, ?_⟩
  obtain ⟨p, k, z, rfl, rfl⟩ := nextSeq_eq_some_iff.mp h
  simp [Nat.add_assoc]

end Sys2Proof.Machine
end

section
/-! PROOFS. `rank` numbers the arrangements in lexicographic order from 0 and `next` adds one to it, so the chain from
`first(n, k)` is every arrangement once, in order (43_permutation.md R152, R153, R156). -/

namespace Sys2Proof.Machine

/-! ### `rank` by recursion on the sequence -/

theorem rank_cons (b : Bool) (c : BitSeq) :
    rank (b :: c) = (if b then c.length.choose (popcount c + 1) else 0) + rank c := by
  rw [rank, rank, List.length_cons, List.range_succ_eq_map, List.map_cons, List.sum_cons, List.map_map]
  congr 1
  · cases b <;> simp
  · refine congrArg List.sum (List.map_congr_left fun i _ => ?_)
    simp [Nat.add_sub_add_right]

@[simp] theorem rank_false_cons (c : BitSeq) : rank (false :: c) = rank c := by simp [rank_cons]

@[simp] theorem rank_true_cons (c : BitSeq) :
    rank (true :: c) = c.length.choose (popcount c + 1) + rank c := by simp [rank_cons]

theorem rank_lt_choose (c : BitSeq) : rank c < c.length.choose (popcount c) := by
  induction c with
  | nil => decide
  | cons b c ih =>
    cases b with
    | false =>
      have hmono := Nat.choose_le_succ c.length (popcount c)
      simpa using ih.trans_le hmono
    | true =>
      have hpascal := Nat.choose_succ_succ' c.length (popcount c)
      simp only [rank_true_cons, List.length_cons, popcount_cons, Bool.toNat_true]
      omega

/-- The greatest arrangement has the last rank. -/
theorem rank_onesZeros (x y : Nat) : rank (onesZeros x y) + 1 = (x + y).choose x := by
  induction x with
  | zero =>
    rw [Nat.choose_zero_right]
    induction y with
    | zero => rfl
    | succ y ih => rwa [onesZeros_zero_succ, rank_false_cons]
  | succ x ih =>
    rw [onesZeros_succ, rank_true_cons, onesZeros_length, popcount_onesZeros, Nat.add_assoc, ih, Nat.add_right_comm,
      Nat.choose_succ_succ, Nat.add_comm]

theorem rank_last {n k : Nat} (hk : k ≤ n) : rank (onesZeros k (n - k)) = n.choose k - 1 := by
  have hlast := rank_onesZeros k (n - k)
  rw [Nat.add_sub_cancel' hk] at hlast
  exact Nat.eq_sub_of_add_eq hlast

/-- The least arrangement has rank 0. -/
theorem rank_firstSeq (n k : Nat) : rank (firstSeq n k) = 0 := by
  rw [firstSeq]
  induction n - k with
  | zero =>
    have hones := rank_onesZeros k 0
    simpa [onesZeros] using hones
  | succ z ih => rwa [List.replicate_succ, List.cons_append, rank_false_cons]

/-- A common beginning adds the same to the ranks of two sequences with as many ones and as many zeros. -/
theorem rank_append_left (p : BitSeq) {c d : BitSeq} (hlen : c.length = d.length) (hones : popcount c = popcount d) :
    rank (p ++ c) + rank d = rank (p ++ d) + rank c := by
  induction p with
  | nil => exact Nat.add_comm _ _
  | cons b p ih =>
    rw [List.cons_append, List.cons_append, rank_cons, rank_cons, List.length_append, List.length_append,
      popcount_append, popcount_append, hlen, hones]
    omega

/-! ### `next` adds one to the rank, and goes on to the last -/

theorem rank_nextSeq {c d : BitSeq} (h : nextSeq c = some d) : rank d = rank c + 1 := by
  obtain ⟨p, k, z, rfl, rfl⟩ := nextSeq_eq_some_iff.mp h
  have hprefix := rank_append_left p (c := false :: onesZeros (k + 1) z) (d := true :: firstSeq (k + 1 + z) k)
    (by simp [firstSeq_length (show k ≤ k + 1 + z by omega)]) (by simp)
  have hbefore := rank_onesZeros (k + 1) z
  rw [rank_false_cons, rank_true_cons, rank_firstSeq, popcount_firstSeq, firstSeq_length (by omega)] at hprefix
  omega

theorem rank_of_exhausted {c : BitSeq} (h : nextSeq c = none) : rank c + 1 = c.length.choose (popcount c) := by
  obtain ⟨x, y, rfl⟩ := nextSeq_eq_none_iff.mp h
  rw [rank_onesZeros, onesZeros_length, popcount_onesZeros]

/-! ### The order of the ranks is the lexicographic order (R12) -/

theorem not_lexLt_nil (d : BitSeq) : ¬ lexLt [] d := by
  rintro ⟨-, i, hi, -⟩
  exact absurd hi (Nat.not_lt_zero i)

theorem lexLt_cons {a b : Bool} {c d : BitSeq} :
    lexLt (a :: c) (b :: d) ↔ (a = false ∧ b = true ∧ c.length = d.length) ∨ (a = b ∧ lexLt c d) := by
  constructor
  · rintro ⟨hlen, i, hi, hprefix, ha, hb⟩
    rw [List.length_cons, List.length_cons, Nat.add_right_cancel_iff] at hlen
    cases i with
    | zero => exact .inl ⟨ha, hb, hlen⟩
    | succ i =>
      rw [List.take_succ_cons, List.take_succ_cons, List.cons.injEq] at hprefix
      rw [bitAt_cons_succ] at ha hb
      exact .inr ⟨hprefix.1, hlen, i, Nat.lt_of_succ_lt_succ hi, hprefix.2, ha, hb⟩
  · rintro (⟨rfl, rfl, hlen⟩ | ⟨rfl, hlen, i, hi, hprefix, ha, hb⟩)
    · exact ⟨congrArg (· + 1) hlen, 0, Nat.succ_pos _, rfl, rfl, rfl⟩
    · exact ⟨congrArg (· + 1) hlen, i + 1, Nat.succ_lt_succ hi, by simp [hprefix], by simpa using ha, by simpa using hb⟩

theorem lexLt_trichotomy {c d : BitSeq} (hlen : c.length = d.length) : c = d ∨ lexLt c d ∨ lexLt d c := by
  induction c generalizing d with
  | nil => exact .inl (List.eq_nil_of_length_eq_zero hlen.symm).symm
  | cons a c ih =>
    cases d with
    | nil => cases hlen
    | cons b d =>
      rw [List.length_cons, List.length_cons, Nat.add_right_cancel_iff] at hlen
      rw [lexLt_cons, lexLt_cons]
      rcases lt_trichotomy a b with hab | rfl | hab
      · exact .inr (.inl (.inl ⟨(Bool.lt_iff.mp hab).1, (Bool.lt_iff.mp hab).2, hlen⟩))
      · exact (ih hlen).imp (congrArg _) (Or.imp (fun h => .inr ⟨rfl, h⟩) fun h => .inr ⟨rfl, h⟩)
      · exact .inr (.inr (.inl ⟨(Bool.lt_iff.mp hab).1, (Bool.lt_iff.mp hab).2, hlen.symm⟩))

/-- Behind the first bit that differs: all arrangements with a 0 there have smaller ranks than those with a 1. -/
theorem rank_lt_of_lexLt {c d : BitSeq} (hones : popcount c = popcount d) (h : lexLt c d) : rank c < rank d := by
  induction c generalizing d with
  | nil => exact absurd h (not_lexLt_nil d)
  | cons a c ih =>
    cases d with
    | nil => cases h.1
    | cons b d =>
      rw [popcount_cons, popcount_cons] at hones
      rcases lexLt_cons.mp h with ⟨rfl, rfl, hlen⟩ | ⟨rfl, htail⟩
      · have hlt := rank_lt_choose c
        rw [hlen, show popcount c = popcount d + 1 from hones] at hlt
        rw [rank_false_cons, rank_true_cons]
        exact Nat.lt_add_right _ hlt
      · have hones' := Nat.add_right_cancel hones
        rw [rank_cons, rank_cons, htail.1, hones']
        exact Nat.add_lt_add_left (ih hones' htail) _

theorem eq_or_lexLt_of_rank_le {c d : BitSeq} (hlen : c.length = d.length) (hones : popcount c = popcount d)
    (h : rank c ≤ rank d) : c = d ∨ lexLt c d := by
  rcases lexLt_trichotomy hlen with heq | hlt | hgt
  · exact .inl heq
  · exact .inr hlt
  · exact absurd (rank_lt_of_lexLt hones.symm hgt) h.not_gt

theorem lexLt_of_rank_lt {c d : BitSeq} (hlen : c.length = d.length) (hones : popcount c = popcount d)
    (h : rank c < rank d) : lexLt c d :=
  (eq_or_lexLt_of_rank_le hlen hones h.le).resolve_left fun heq => h.ne (congrArg rank heq)

theorem eq_of_rank_eq {c d : BitSeq} (hlen : c.length = d.length) (hones : popcount c = popcount d)
    (h : rank c = rank d) : c = d :=
  (eq_or_lexLt_of_rank_le hlen hones h.le).resolve_right fun hlt => (rank_lt_of_lexLt hones hlt).ne h

/-- Settles O55: `next` adds one to the rank, and the two extremes have the first and the last rank. -/
theorem nextIsLeastGreater : Obligations.NextIsLeastGreater := by
  refine ⟨fun c d h => ?_, fun n k c hk ⟨hlen, hones⟩ => ⟨?_, ?_⟩⟩
  · obtain ⟨hlen, hones⟩ := nextKeepsLengthAndCount c d h
    have hrank := rank_nextSeq h
    refine ⟨lexLt_of_rank_lt hlen.symm hones.symm (by omega), fun e he ⟨hce, hed⟩ => ?_⟩
    have hlower := rank_lt_of_lexLt he.symm hce
    have hupper := rank_lt_of_lexLt (he.trans hones.symm) hed
    omega
  · obtain ⟨hlen', hones'⟩ := firstSeq_isArrangement hk
    refine (eq_or_lexLt_of_rank_le (hlen'.trans hlen.symm) (hones'.trans hones.symm) ?_).imp_left Eq.symm
    exact (rank_firstSeq n k).trans_le (Nat.zero_le _)
  · obtain ⟨hlen', hones'⟩ := onesZeros_isArrangement hk
    refine eq_or_lexLt_of_rank_le (hlen.trans hlen'.symm) (hones.trans hones'.symm) ?_
    have hlt := rank_lt_choose c
    rw [hlen, hones] at hlt
    exact (Nat.le_sub_one_of_lt hlt).trans_eq (rank_last hk).symm

/-! ### The chain from `first(n, k)` (R152, R156) -/

/-- `m` steps from an arrangement lead to the arrangement whose rank is `m` more. -/
theorem nthNext_eq_some_iff {m : Nat} {c d : BitSeq} :
    nthNext m c = some d ↔ d.length = c.length ∧ popcount d = popcount c ∧ rank d = rank c + m := by
  induction m generalizing c with
  | zero =>
    rw [nthNext, Option.some.injEq]
    exact ⟨fun h => h ▸ ⟨rfl, rfl, rfl⟩, fun ⟨hlen, hones, hrank⟩ => (eq_of_rank_eq hlen hones hrank).symm⟩
  | succ m ih =>
    cases hn : nextSeq c with
    | none =>
      have hlast := rank_of_exhausted hn
      simp only [nthNext, hn, Option.bind_none, reduceCtorEq, false_iff]
      rintro ⟨hlen, hones, hrank⟩
      have hlt := rank_lt_choose d
      rw [hlen, hones] at hlt
      omega
    | some e =>
      obtain ⟨hlen, hones⟩ := nextKeepsLengthAndCount c e hn
      rw [nthNext, hn, Option.bind_some, ih, hlen, hones, rank_nextSeq hn, Nat.add_right_comm, Nat.add_assoc]

theorem nthNext_firstSeq_eq_some_iff {n k m : Nat} {c : BitSeq} (hk : k ≤ n) :
    nthNext m (firstSeq n k) = some c ↔ isArrangement n k c ∧ rank c = m := by
  rw [nthNext_eq_some_iff, firstSeq_length hk, popcount_firstSeq, rank_firstSeq, Nat.zero_add, isArrangement, and_assoc]

/-- Every number below `C(n, k)` is the rank of an arrangement. -/
theorem exists_rank_iff {n k : Nat} (hk : k ≤ n) (m : Nat) :
    (∃ c, isArrangement n k c ∧ rank c = m) ↔ m < n.choose k := by
  constructor
  · rintro ⟨c, ⟨rfl, rfl⟩, rfl⟩
    exact rank_lt_choose c
  · induction m with
    | zero => exact fun _ => ⟨_, firstSeq_isArrangement hk, rank_firstSeq n k⟩
    | succ m ih =>
      intro hm
      obtain ⟨c, ⟨rfl, rfl⟩, rfl⟩ := ih (by omega)
      cases hn : nextSeq c with
      | none => exact absurd (rank_of_exhausted hn) (by omega)
      | some d => exact ⟨d, nextKeepsLengthAndCount c d hn, rank_nextSeq hn⟩

/-- Settles O56: candidate `m + 1` is the arrangement of rank `m`. -/
theorem enumerationIsComplete : Obligations.EnumerationIsComplete := by
  intro n k hk
  have hcand : ∀ {m c}, candidate n k (m + 1) = some c ↔ isArrangement n k c ∧ rank c = m :=
    nthNext_firstSeq_eq_some_iff hk
  refine ⟨fun m => ?_, fun i j c hi hj => ?_, fun c => ?_⟩
  · simp only [hcand]
    exact exists_rank_iff hk m
  · exact (hcand.mp hi).2.symm.trans (hcand.mp hj).2
  · simp only [hcand, exists_and_left, exists_eq', and_true]

/-- Settles O57: an arrangement is reached after as many steps as its rank says. -/
theorem rankCountsSteps : Obligations.RankCountsSteps :=
  ⟨fun _ _ _ hk harr => (nthNext_firstSeq_eq_some_iff hk).mpr ⟨harr, rfl⟩,
    fun n k hk => ⟨rank_firstSeq n k, rank_last hk⟩⟩

end Sys2Proof.Machine
end

section
/-! PROOFS. The commands FIRST and NEXT by the whole state they leave, and the records with one candidate
(43_permutation.md R147 to R151; 44_decoder.md R178). -/

namespace Sys2Proof.Machine

/-! ### The whole state FIRST and NEXT leave (R147, R149) -/

/-- Settles O23: one of the two checks fails and only STATUS tells, or c is seeded. -/
theorem firstResult : Obligations.FirstResult := by
  intro s idle
  have accepted := performWrite_cmd_encode .first idle
  split_ifs with param capacity
  · refine exec_fails (by decide) idle ?_
    rw [commandBody, firstStep, checkParams_param (by rw [accepted]; exact param)]
    rfl
  · refine exec_fails (by decide) idle ?_
    rw [commandBody, firstStep, checkParams_capacity (by rw [accepted]; exact Nat.le_of_not_lt param)
      (by rw [accepted]; exact capacity)]
    rfl
  · rw [exec_idle_body _ idle, commandBody, firstStep, accepted,
      checkParams_ok (by exact Nat.le_of_not_lt param) (by exact Nat.le_of_not_lt capacity), Except.map, conclude_ok,
      opSeed, finish_settles rfl]
    rfl

/-- Settles O24: `next` finds no successor and EXH tells, or it replaces c. -/
theorem nextResult : Obligations.NextResult := by
  intro s idle
  rw [exec_idle_body _ idle, commandBody, performWrite_cmd_encode _ idle]
  cases hn : nextSeq s.cand with
  | none => rw [nextStep_exhausted (by exact hn), finish_settles rfl]; rfl
  | some d => rw [nextStep_next (by exact hn), finish_settles rfl]; rfl

/-! ### One candidate (R151, R178) -/

/-- With no ones or only ones the first candidate is the last. -/
theorem nextSeq_firstSeq_single {n k : Nat} (h : k = 0 ∨ k = n) : nextSeq (firstSeq n k) = none := by
  refine nextSeq_eq_none_iff.mpr ?_
  rcases h with rfl | rfl
  · exact ⟨0, n, by simp [firstSeq, onesZeros]⟩
  · exact ⟨k, 0, by simp [firstSeq, onesZeros]⟩

theorem toNat_zero_or_eq {k n : Word} (h : k = 0 ∨ k = n) : k.toNat = 0 ∨ k.toNat = n.toNat :=
  h.imp (congrArg BitVec.toNat) (congrArg BitVec.toNat)

theorem exec_first_seeds {s : State} (idle : s.busy = false) (param : s.setBits.toNat ≤ s.totalBits.toNat)
    (capacity : s.totalBits.toNat ≤ s.cfg.nmax) :
    exec .first s =
      .next { ended .first .none s with cand := firstSeq s.totalBits.toNat s.setBits.toNat } := by
  rw [firstResult s idle, if_neg (Nat.not_lt.mpr param), if_neg (Nat.not_lt.mpr capacity)]
  rfl

/-- A record that passes the checks, of whole bytes and with the fingerprint of its first candidate, is decoded at the
first comparison, before any cancel request is sampled (R167, R168). -/
theorem exec_decode_first {s : State} (idle : s.busy = false) (size : s.drecLen = 24)
    (param : s.drec1.toNat ≤ s.drec0.toNat) (capacity : s.drec0.toNat ≤ s.cfg.nmax) (bytes : s.drec0.toNat % 8 = 0)
    (hash : fp (firstSeq s.drec0.toNat s.drec1.toNat) = s.drec2) :
    exec .decode s = .next { ended .decode .none s with
      totalBits := s.drec0, setBits := s.drec1, fingerprint := s.drec2
      cand := firstSeq s.drec0.toNat s.drec1.toNat, acc := s.drec2, count := 1, matched := true
      buf := bufWriteBytes s.buf 0 (unpackBits (firstSeq s.drec0.toNat s.drec1.toNat))
      byteCount := BitVec.ofNat 64 (s.drec0.toNat / 8) } := by
  have hlen := firstSeq_length param
  obtain ⟨fuel, hfuel⟩ := Nat.exists_eq_succ_of_ne_zero
    (Nat.two_pow_pos (firstSeq s.drec0.toNat s.drec1.toNat).length).ne'
  rw [exec_idle_body _ idle, commandBody, performWrite_cmd_encode _ idle, decodeBody_record (by exact size),
    if_neg (by exact Nat.not_lt.mpr param), if_neg (by exact Nat.not_lt.mpr capacity)]
  simp only [hfuel]
  rw [decodeLoop_match _ (by exact hash), opUnpack_bytes (by simpa [State.len, hlen] using bytes), conclude_ok,
    finish_settles rfl]
  simp only [State.len, hlen, hash]
  rfl

/-- Settles O60: the only candidate is the first, so NEXT is exhausted on it and DECODE matches it at once. -/
theorem singleMemberEnumerations : Obligations.SingleMemberEnumerations := by
  constructor
  · intro s idle capacity single
    have hone := toNat_zero_or_eq single
    have hnext := nextResult
      { ended .first .none s with cand := firstSeq s.totalBits.toNat s.setBits.toNat } rfl
    simp only [nextSeq_firstSeq_single hone] at hnext
    exact ⟨_, _, exec_first_seeds idle (by omega) capacity, hnext, rfl, rfl, rfl⟩
  · intro s idle size capacity bytes single hash
    have hone := toNat_zero_or_eq single
    exact ⟨_, exec_decode_first idle size (by omega) capacity bytes hash.symm, rfl, rfl, rfl, rfl⟩

end Sys2Proof.Machine
end

section
/-! PROOFS. LDDESC by the whole state it leaves, the decode sequencer row by row, and DECODE on a record that fails a
check (44_decoder.md R160 to R164, R175). -/

namespace Sys2Proof.Machine

/-- Settles O25: the record has the wrong size and only STATUS tells, or its three words are loaded. -/
theorem lddescResult : Obligations.LddescResult := by
  intro s idle
  have accepted := performWrite_cmd_encode .lddesc idle
  split_ifs with size
  · refine exec_fails (by decide) idle ?_
    rw [commandBody, lddescStep, opLddesc_wrongSize (by rw [accepted]; exact size), conclude_error]
  · rw [exec_idle_body _ idle, commandBody, lddescStep, accepted, opLddesc_record (by exact not_not.mp size),
      conclude_ok, finish_settles rfl]
    rfl

/-! ### The rows of the decode sequencer that branch on a check (R175) -/

theorem decLoadStep_eq (s : State) :
    decLoadStep s =
      if s.drecLen ≠ 24 then s.fail .format
      else { s with totalBits := s.drec0, setBits := s.drec1, fingerprint := s.drec2, st := .dCheck } := by
  split_ifs with size
  · rw [decLoadStep, opLddesc_wrongSize size]
  · rw [decLoadStep, opLddesc_record (not_not.mp size)]

theorem decCheckStep_eq (s : State) :
    decCheckStep s =
      if s.totalBits.toNat < s.setBits.toNat then s.fail .param
      else if s.cfg.nmax < s.totalBits.toNat then s.fail .capacity else { s with st := .dSeed } := by
  split_ifs with param capacity
  · rw [decCheckStep, checkParams_param param]
  · rw [decCheckStep, checkParams_capacity (Nat.le_of_not_lt param) capacity]
  · rw [decCheckStep, checkParams_ok (Nat.le_of_not_lt param) (Nat.le_of_not_lt capacity)]

theorem decEmitStep_eq (s : State) :
    decEmitStep s =
      if s.cand.length % 8 ≠ 0 then s.fail .length
      else State.finish { s with
        buf := bufWriteBytes s.buf 0 (unpackBits s.cand), byteCount := BitVec.ofNat 64 (s.cand.length / 8) } := by
  split_ifs with odd
  · rw [decEmitStep, opUnpack_odd odd, conclude_error]
  · rw [decEmitStep, opUnpack_bytes (not_not.mp odd), conclude_ok]
    rfl

/-- Settles O44: each row is the step of its state; IDLE is left by the issue of DECODE alone. -/
theorem decodeSequencerTable : Obligations.DecodeSequencerTable := by
  intro s
  refine ⟨fun h => ⟨by rw [fsmStep, h], fun idle => ?_⟩, fun h => ?_, fun h => ?_, fun h => ?_, fun h => ?_,
    fun h => ?_, fun h => ?_, fun h => ?_⟩
  case refine_1 =>
    have issued : performWrite 0x0 10 s = _ := performWrite_cmd_encode .decode idle
    rw [issued]
    exact ⟨rfl, rfl⟩
  all_goals rw [fsmStep, h]
  · exact decLoadStep_eq s
  · exact decCheckStep_eq s
  · rfl
  · rfl
  · rfl
  · rfl
  · exact decEmitStep_eq s

/-! ### The checks before the search (R164, R196) -/

/-- DECODE on an idle block: its body from the state its issue leaves, with COUNT 0. -/
theorem exec_decode_body {s : State} (idle : s.busy = false) :
    exec .decode s = .next (cancelLands (decodeBody { s with
      cmd := encode .decode, done := false, exh := false, matched := false, err := .none, cancelReq := false
      count := 0, busy := true, st := .dLoad, reply := some .okayWrite })) := by
  rw [exec_idle_body _ idle, commandBody, performWrite_cmd_encode _ idle]
  rfl

/-- Settles O28: the three checks in their order; the first that fails ends DECODE. -/
theorem decodeEntryErrors : Obligations.DecodeEntryErrors := by
  intro s idle
  refine ⟨fun size => ?_, fun size param => ?_, fun size param capacity => ?_⟩ <;> rw [exec_decode_body idle]
  · rw [decodeBody_format (by exact size), fail_settles _ rfl]
    rfl
  · rw [decodeBody_record (by exact size), if_pos (by exact param), fail_settles _ rfl]
    rfl
  · rw [decodeBody_record (by exact size), if_neg (by exact Nat.not_lt.mpr param), if_pos (by exact capacity),
      fail_settles _ rfl]
    rfl

end Sys2Proof.Machine
end

section
/-! PROOFS. The search of DECODE: where it stands after a number of comparisons without a match, and the whole state
each of its three ends leaves (44_decoder.md R163 to R173). -/

namespace Sys2Proof.Machine

/-! ### The candidates (R165) -/

theorem nthNext_succ (m : Nat) (c : BitSeq) : nthNext (m + 1) c = (nthNext m c).bind nextSeq := by
  induction m generalizing c with
  | zero => cases h : nextSeq c <;> simp [nthNext, h]
  | succ m ih =>
    rw [nthNext, nthNext, Option.bind_assoc]
    exact Option.bind_congr fun d _ => ih d

/-- Candidate `m + 1` is the arrangement of rank `m`. -/
theorem candidate_eq_some_iff {T K m : Nat} {c : BitSeq} (hk : K ≤ T) :
    candidate T K (m + 1) = some c ↔ isArrangement T K c ∧ rank c = m :=
  nthNext_firstSeq_eq_some_iff hk

theorem candidate_isArrangement {T K m : Nat} {c : BitSeq} (hk : K ≤ T) (hm : 1 ≤ m)
    (h : candidate T K m = some c) : isArrangement T K c := by
  obtain ⟨m, rfl⟩ := Nat.exists_eq_add_of_le' hm
  exact ((candidate_eq_some_iff hk).mp h).1

theorem candidate_number_lt {T K m : Nat} {c : BitSeq} (hk : K ≤ T) (h : candidate T K (m + 1) = some c) :
    m < T.choose K :=
  (exists_rank_iff hk m).mp ⟨c, (candidate_eq_some_iff hk).mp h⟩

theorem exists_candidate {T K m : Nat} (hk : K ≤ T) (h : m < T.choose K) : ∃ c, candidate T K (m + 1) = some c := by
  obtain ⟨c, hc⟩ := (exists_rank_iff hk m).mpr h
  exact ⟨c, (candidate_eq_some_iff hk).mpr hc⟩

/-! ### The search on the way (R166 to R168) -/

/-- A record that D_LOAD and D_CHECK let through, on an idle block (R164). -/
structure GoodRecord (s : State) : Prop where
  idle : s.busy = false
  size : s.drecLen = 24
  param : s.drec1.toNat ≤ s.drec0.toNat
  capacity : s.drec0.toNat ≤ s.cfg.nmax

/-- DECODE, issued on `s`, where comparison `m + 1` is due, of candidate `c`; ACC is what comparison `m` left. -/
def searching (s : State) (m : Nat) (c : BitSeq) (acc : Word) : State :=
  { s with
    cmd := encode .decode, done := false, exh := false, matched := false, err := .none, cancelReq := false
    busy := true, st := .dLoad, reply := some .okayWrite
    totalBits := s.drec0, setBits := s.drec1, fingerprint := s.drec2
    cand := c, acc := acc, count := BitVec.ofNat 64 m, cancelAt := s.cancelAt.map (· - m) }

theorem searching_compared (s : State) (m : Nat) (c : BitSeq) (a : Word) :
    opCount (opHash (searching s m c a)) = { searching s m c (fp c) with count := BitVec.ofNat 64 (m + 1) } := by
  rw [BitVec.ofNat_add]
  rfl

/-- A cancel write planned for a later comparison comes one comparison nearer. -/
theorem searching_early {s : State} {m : Nat} (c : BitSeq) (a : Word)
    (early : ∀ q, s.cancelAt = some q → m + 1 < max q 1) :
    cancelArrives (opCount (opHash (searching s m c a))) = searching s (m + 1) c (fp c) := by
  rw [searching_compared]
  cases hq : s.cancelAt with
  | none =>
    rw [cancelArrives_never (by simp [searching, hq])]
    simp [searching, hq]
  | some q =>
    have hlt := early q hq
    rw [cancelArrives_later (q := q - m) (by simp [searching, hq]) (by omega)]
    simp [searching, hq, Nat.sub_sub]

/-- A cancel write planned for this comparison lands. -/
theorem searching_due {s : State} {m q : Nat} (c : BitSeq) (a : Word) (hq : s.cancelAt = some q)
    (due : max q 1 = m + 1) :
    cancelArrives (opCount (opHash (searching s m c a))) =
      { searching s (m + 1) c (fp c) with cancelReq := true, cancelAt := none } := by
  rw [searching_compared, cancelArrives_now (q := q - m) (by simp [searching, hq]) (by omega)]
  rfl

section
variable {s : State} {m : Nat} {c : BitSeq} (n : Nat) (a : Word)

/-- Comparison `m + 1` does not match and no cancel write comes after it: the next candidate (R168). -/
theorem searching_advance {d : BitSeq} (differ : fp c ≠ s.drec2)
    (early : ∀ q, s.cancelAt = some q → m + 1 < max q 1) (hd : nextSeq c = some d) :
    decodeLoop (n + 1) (searching s m c a) = decodeLoop n (searching s (m + 1) d (fp c)) := by
  have harrives := searching_early c a early
  exact (decodeLoop_advance (s := searching s m c a) n differ (congrArg State.cancelReq harrives) hd).trans
    (congrArg (fun t : State => decodeLoop n { t with cand := d }) harrives)

/-- As `searching_advance`, but there is no next candidate (R168). -/
theorem searching_exhausted (differ : fp c ≠ s.drec2) (early : ∀ q, s.cancelAt = some q → m + 1 < max q 1)
    (hd : nextSeq c = none) :
    decodeLoop (n + 1) (searching s m c a) =
      State.fail .notFound { searching s (m + 1) c (fp c) with exh := true } := by
  have harrives := searching_early c a early
  exact (decodeLoop_exhausted (s := searching s m c a) n differ (congrArg State.cancelReq harrives) hd).trans
    (congrArg (fun t : State => State.fail .notFound { t with exh := true }) harrives)

/-- Comparison `m + 1` does not match and the cancel write is sampled after it (R168). -/
theorem searching_cancelled {q : Nat} (differ : fp c ≠ s.drec2) (hq : s.cancelAt = some q) (due : max q 1 = m + 1) :
    decodeLoop (n + 1) (searching s m c a) =
      State.fail .cancelled { searching s (m + 1) c (fp c) with cancelReq := true, cancelAt := none } := by
  have harrives := searching_due c a hq due
  exact (decodeLoop_cancelled (s := searching s m c a) n differ (congrArg State.cancelReq harrives)).trans
    (congrArg (State.fail .cancelled) harrives)

/-- Comparison `m + 1` matches: the output (R167, R169). -/
theorem searching_match (hash : fp c = s.drec2) :
    decodeLoop (n + 1) (searching s m c a) =
      unpackStep { searching s m c (fp c) with count := BitVec.ofNat 64 (m + 1), matched := true } :=
  (decodeLoop_match (s := searching s m c a) n hash).trans
    (congrArg (fun t : State => unpackStep { t with matched := true }) (searching_compared s m c a))

end

/-- The search comes to its comparison `m + 1` when none before it matches and no cancel write comes before it. -/
theorem exec_decode_searching {s : State} {m : Nat} {c : BitSeq} (good : GoodRecord s)
    (hc : candidate s.drec0.toNat s.drec1.toNat (m + 1) = some c)
    (first : noMatchBefore s.drec0.toNat s.drec1.toNat (m + 1) s.drec2)
    (early : ∀ q, s.cancelAt = some q → m < max q 1) :
    ∃ a, exec .decode s =
      .next (cancelLands (decodeLoop (2 ^ s.drec0.toNat - (m + 1) + 1) (searching s m c a))) := by
  obtain ⟨idle, size, param, capacity⟩ := good
  have hfuel := (candidate_number_lt param hc).trans_le (Nat.choose_le_two_pow _ _)
  induction m generalizing c with
  | zero =>
    cases hc
    refine ⟨s.acc, ?_⟩
    rw [exec_decode_body idle, decodeBody_record (by exact size), if_neg (by exact Nat.not_lt.mpr param),
      if_neg (by exact Nat.not_lt.mpr capacity), Nat.sub_add_cancel hfuel]
    simp [searching, firstSeq_length param]
  | succ m ih =>
    have hchain := nthNext_succ m (firstSeq s.drec0.toNat s.drec1.toNat)
    obtain ⟨b, hb, hnext⟩ := Option.bind_eq_some_iff.mp (hchain.symm.trans hc)
    obtain ⟨a, ha⟩ := ih hb (fun j d h1 hj => first j d h1 (by omega)) (fun q hq => by have := early q hq; omega)
      (by omega)
    refine ⟨fp b, ?_⟩
    rw [ha, searching_advance _ a (first (m + 1) b (by omega) (by omega) hb) early hnext]
    congr 3
    omega

/-! ### The ends of the search (R168, R169, R173) -/

/-- Settles O29: the first match comes before any cancel write is sampled, and the output decides on LengthError. -/
theorem decodeStopsAtFirstMatch : Obligations.DecodeStopsAtFirstMatch := by
  intro s m c idle size param capacity hm hc hash first inTime
  have hlen : c.length = s.drec0.toNat := (candidate_isArrangement param hm hc).1
  obtain ⟨m, rfl⟩ := Nat.exists_eq_add_of_le' hm
  obtain ⟨a, ha⟩ := exec_decode_searching ⟨idle, size, param, capacity⟩ hc first inTime
  rw [ha, searching_match _ a hash, unpackStep]
  refine ⟨fun bytes => ?_, fun odd => ?_⟩
  · rw [opUnpack_bytes (by simpa [State.len, searching, hlen] using bytes), conclude_ok, finish_settles rfl]
    simp [searching, ended, State.len, hlen, hash]
  · rw [opUnpack_odd (by simpa [State.len, searching, hlen] using odd), conclude_error, fail_settles _ rfl]
    simp [searching, ended, hash]

/-- Settles O30: the planned cancel write is sampled after the comparison it is planned for. -/
theorem decodeCancelled : Obligations.DecodeCancelled := by
  intro s q c idle size param capacity hq hc noMatch
  obtain ⟨m, hm⟩ := Nat.exists_eq_add_of_le' (Nat.le_max_right q 1)
  rw [hm] at hc noMatch ⊢
  obtain ⟨a, ha⟩ := exec_decode_searching ⟨idle, size, param, capacity⟩ hc (fun j d h1 hj =>
    noMatch j d h1 (by omega))
    (fun p hp => by cases hq.symm.trans hp; omega)
  rw [ha, searching_cancelled _ a (noMatch (m + 1) c (by omega) (by omega) hc) hq hm, fail_settles _ rfl]
  simp [searching, ended, hq]

/-- Settles O31: no candidate matches, and the last one has no successor. -/
theorem decodeNotFound : Obligations.DecodeNotFound := by
  intro s idle size param capacity noMatch late last
  have harr : isArrangement s.drec0.toNat s.drec1.toNat last := onesZeros_isArrangement param
  have hnone : nextSeq last = none := nextSeq_onesZeros _ _
  have hrank : rank last + 1 = s.drec0.toNat.choose s.drec1.toNat := by
    rw [rank_of_exhausted hnone, harr.1, harr.2]
  have early : ∀ q, s.cancelAt = some q → rank last + 1 < max q 1 := fun q hq => by have := late q hq; omega
  obtain ⟨a, ha⟩ := exec_decode_searching ⟨idle, size, param, capacity⟩
    ((candidate_eq_some_iff param).mpr ⟨harr, rfl⟩)
    (fun j d h1 _ hd => noMatch d (candidate_isArrangement param h1 hd))
    (fun q hq => (Nat.lt_succ_self _).trans (early q hq))
  rw [ha, searching_exhausted _ a (noMatch last harr) early hnone, fail_settles _ rfl, hrank]
  simp [searching, ended]

end Sys2Proof.Machine
end

section
/-! PROOFS. Every search ends in one of three ways, which the record and the cancel parameter decide; so DECODE
depends on nothing else, and it finds what ENCODE made (44_decoder.md R170, R177, R181). -/

namespace Sys2Proof.Machine

/-! ### How a search ends (R170) -/

/-- The end of the search for `F` among the arrangements of `(T, K)` with cancel parameter `q`: the first match, the
cancel write, or the last candidate. -/
inductive SearchEnd (T K : Nat) (F : Word) (q : Option Nat) : Prop where
  | matched (m : Nat) (c : BitSeq) (pos : 1 ≤ m) (reached : candidate T K m = some c) (hash : fp c = F)
      (first : noMatchBefore T K m F) (inTime : ∀ n, q = some n → m ≤ max n 1)
  | cancelled (n : Nat) (c : BitSeq) (planned : q = some n) (reached : candidate T K (max n 1) = some c)
      (noMatch : noMatchBefore T K (max n 1 + 1) F)
  | notFound (noMatch : ∀ c, isArrangement T K c → fp c ≠ F) (late : ∀ n, q = some n → T.choose K < n)

/-- The cancel write ends a search in which no candidate up to its time matches, if there are so many. -/
theorem SearchEnd.of_cancel {T K n : Nat} {F : Word} (hk : K ≤ T) (enough : n ≤ T.choose K)
    (noMatch : noMatchBefore T K (max n 1 + 1) F) : SearchEnd T K F (some n) := by
  have hpos := Nat.choose_pos hk
  obtain ⟨m, hm⟩ := Nat.exists_eq_add_of_le' (Nat.le_max_right n 1)
  obtain ⟨c, hc⟩ := exists_candidate hk (m := m) (by omega)
  exact .cancelled n c rfl (hm ▸ hc) noMatch

theorem searchEnd {T K : Nat} (F : Word) (q : Option Nat) (hk : K ≤ T) : SearchEnd T K F q := by
  classical
  by_cases hmatch : ∃ m, 1 ≤ m ∧ ∃ c, candidate T K m = some c ∧ fp c = F
  · obtain ⟨pos, c, reached, hash⟩ := Nat.find_spec hmatch
    have first : noMatchBefore T K (Nat.find hmatch) F :=
      fun j d hj hlt hd hF => Nat.find_min hmatch hlt ⟨hj, d, hd, hF⟩
    by_cases inTime : ∀ n, q = some n → Nat.find hmatch ≤ max n 1
    · exact .matched _ c pos reached hash first inTime
    · push Not at inTime
      obtain ⟨n, rfl, hn⟩ := inTime
      obtain ⟨m, hm⟩ := Nat.exists_eq_add_of_le' pos
      have hlt := candidate_number_lt hk (hm ▸ reached)
      exact .of_cancel hk (by omega) fun j d hj hjn => first j d hj (by omega)
  · have noMatch : ∀ m, noMatchBefore T K m F := fun m j d hj _ hd hF => hmatch ⟨j, hj, d, hd, hF⟩
    by_cases late : ∀ n, q = some n → T.choose K < n
    · refine .notFound (fun c harr => ?_) late
      exact noMatch (rank c + 2) (rank c + 1) c (by omega) (by omega) ((candidate_eq_some_iff hk).mpr ⟨harr, rfl⟩)
    · push Not at late
      obtain ⟨n, rfl, hn⟩ := late
      exact .of_cancel hk hn (noMatch _)

/-! ### DECODE depends on the record, NMAX and the cancel parameter (R181) -/

/-- The bytes written from address 0 do not tell what stood there before. -/
theorem bufRead_bufWriteBytes_congr {m₁ m₂ : List Host.Cell} {bytes : List Byte} {j : Nat} (wf₁ : bufWf m₁ = true)
    (wf₂ : bufWf m₂ = true) (hj : j < bytes.length) :
    bufRead (bufWriteBytes m₁ 0 bytes) j = bufRead (bufWriteBytes m₂ 0 bytes) j := by
  rw [← Nat.zero_add j, bufRead_bufWriteBytes_inside wf₁ hj, bufRead_bufWriteBytes_inside wf₂ hj]

/-- Settles O33: the checks and the end of the search are the same for both, and each fixes the result. -/
theorem decodeUsesOnlyTheRecord : Obligations.DecodeUsesOnlyTheRecord := by
  intro s₁ s₂ idle₁ idle₂ wf₁ wf₂ hcfg hlen h0 h1 h2 hq
  obtain ⟨format₁, param₁, capacity₁⟩ := decodeEntryErrors s₁ idle₁
  obtain ⟨format₂, param₂, capacity₂⟩ := decodeEntryErrors s₂ idle₂
  rw [← hlen] at format₂
  rw [← hlen, ← h0, ← h1, ← h2] at param₂
  rw [← hlen, ← h0, ← h1, ← h2, ← hcfg] at capacity₂
  by_cases size : s₁.drecLen = 24
  case neg => exact ⟨_, _, format₁ size, format₂ size, rfl, rfl, by simp [ended], by simp, by simp [ended]⟩
  rcases Nat.lt_or_ge s₁.drec0.toNat s₁.drec1.toNat with param | param
  · exact ⟨_, _, param₁ size param, param₂ size param, rfl, rfl, by simp, by simp, by simp [ended]⟩
  rcases Nat.lt_or_ge s₁.cfg.nmax s₁.drec0.toNat with capacity | capacity
  · exact ⟨_, _, capacity₁ size param capacity, capacity₂ size param capacity, rfl, rfl, by simp, by simp,
      by simp [ended]⟩
  cases searchEnd s₁.drec2 s₁.cancelAt param with
  | matched m c pos reached hash first inTime =>
    have result₁ := decodeStopsAtFirstMatch s₁ m c idle₁
    have result₂ := decodeStopsAtFirstMatch s₂ m c idle₂
    rw [← hlen, ← h0, ← h1, ← h2, ← hcfg, ← hq] at result₂
    obtain ⟨bytes₁, odd₁⟩ := result₁ size param capacity pos reached hash first inTime
    obtain ⟨bytes₂, odd₂⟩ := result₂ size param capacity pos reached hash first inTime
    by_cases bytes : s₁.drec0.toNat % 8 = 0
    · refine ⟨_, _, bytes₁ bytes, bytes₂ bytes, rfl, rfl, by simp, by simp, fun _ => ⟨rfl, fun j hj => ?_⟩⟩
      exact bufRead_bufWriteBytes_congr wf₁ wf₂ (by rwa [unpackBits_length])
    · exact ⟨_, _, odd₁ bytes, odd₂ bytes, rfl, rfl, by simp, by simp, by simp [ended]⟩
  | cancelled n c planned reached noMatch =>
    have result₂ := decodeCancelled s₂ n c idle₂
    rw [← hlen, ← h0, ← h1, ← h2, ← hcfg, ← hq] at result₂
    exact ⟨_, _, decodeCancelled s₁ n c idle₁ size param capacity planned reached noMatch,
      result₂ size param capacity planned reached noMatch, rfl, rfl, by simp, by simp, by simp [ended]⟩
  | notFound noMatch late =>
    have result₂ := decodeNotFound s₂ idle₂
    rw [← hlen, ← h0, ← h1, ← h2, ← hcfg, ← hq] at result₂
    exact ⟨_, _, decodeNotFound s₁ idle₁ size param capacity noMatch late,
      result₂ size param capacity noMatch late, rfl, rfl, by simp, by simp, by simp [ended]⟩

/-! ### What ENCODE made, DECODE finds (R177) -/

/-- The first candidate with the fingerprint of an arrangement is that arrangement, or a smaller one. -/
theorem first_match_eq_or_lexLt {T K m : Nat} {c d : BitSeq} (hk : K ≤ T) (hc : isArrangement T K c) (pos : 1 ≤ m)
    (reached : candidate T K m = some d) (first : noMatchBefore T K m (fp c)) : d = c ∨ lexLt d c := by
  obtain ⟨m, rfl⟩ := Nat.exists_eq_add_of_le' pos
  obtain ⟨hd, hrank⟩ := (candidate_eq_some_iff hk).mp reached
  refine eq_or_lexLt_of_rank_le (hd.1.trans hc.1.symm) (hd.2.trans hc.2.symm) ?_
  by_contra hgt
  exact first (rank c + 1) c (by omega) (by omega) ((candidate_eq_some_iff hk).mpr ⟨hc, rfl⟩) rfl

/-- DECODE of the record of a sequence `c` of whole bytes, with no cancel, ends with a match: `c` or a smaller one. -/
theorem exec_decode_arrangement {s : State} {c : BitSeq} (good : GoodRecord s) (never : s.cancelAt = none)
    (hc : isArrangement s.drec0.toNat s.drec1.toNat c) (hash : fp c = s.drec2) (bytes : s.drec0.toNat % 8 = 0) :
    ∃ u d, exec .decode s = .next u ∧ u.err = .none ∧ u.matched = true ∧
      u.byteCount = BitVec.ofNat 64 (s.drec0.toNat / 8) ∧ u.buf = bufWriteBytes s.buf 0 (unpackBits d) ∧
      fp d = fp c ∧ isArrangement s.drec0.toNat s.drec1.toNat d ∧ (d = c ∨ lexLt d c) := by
  obtain ⟨idle, size, param, capacity⟩ := good
  cases searchEnd s.drec2 s.cancelAt param with
  | matched m d pos reached hd first inTime =>
    have result := (decodeStopsAtFirstMatch s m d idle size param capacity pos reached hd first inTime).1 bytes
    exact ⟨_, d, result, rfl, rfl, rfl, rfl, hd.trans hash.symm, candidate_isArrangement param pos reached,
      first_match_eq_or_lexLt param hc pos reached (hash ▸ first)⟩
  | cancelled n d planned => cases never.symm.trans planned
  | notFound noMatch => exact absurd hash (noMatch c hc)

/-- ENCODE that fits leaves a record that DECODE lets through, and it is the record of the packed input (R139). -/
theorem exec_encode_goodRecord {s : State} (hc : s.cfg.wf = true) (idle : s.busy = false)
    (fits : s.byteCount.toNat ≤ s.cfg.nmax / 8) :
    ∃ t, exec .encode s = .next t ∧ GoodRecord t ∧ t.cand = packBytes (inputBytes s) ∧ t.buf = s.buf ∧
      t.cancelAt = none ∧ t.drec0.toNat = 8 * s.byteCount.toNat ∧
      isArrangement t.drec0.toNat t.drec1.toNat t.cand ∧ fp t.cand = t.drec2 := by
  have hencode := encodeResult s idle
  rw [if_neg (Nat.not_lt.mpr fits), ← inputBytes_eq] at hencode
  obtain ⟨t, ht, -, hle, -, htotal, hcap, hset, hfp, h0, h1, h2, hsize⟩ := encodeMakesDescriptor s hc idle fits
  rw [← h0, ← h1] at hle
  rw [← h0] at htotal hcap
  rw [← h1] at hset
  rw [← h2] at hfp
  have harr : isArrangement t.drec0.toNat t.drec1.toNat (packBytes (inputBytes s)) :=
    ⟨(packBytes_inputBytes_length s).trans htotal.symm, hset.symm⟩
  refine ⟨t, ht, ?_⟩
  cases hencode.symm.trans ht
  exact ⟨⟨rfl, hsize, hle, hcap⟩, rfl, rfl, rfl, htotal, harr, hfp.symm⟩

/-- Settles O34: the packed input is an arrangement of its own record, so the search matches it or a smaller one. -/
theorem roundTrip : Obligations.RoundTrip := by
  intro s hc idle hwf fits never
  obtain ⟨t, ht, good, hcand, hbuf, hcancel, htotal, harr, hash⟩ := exec_encode_goodRecord hc idle fits
  obtain ⟨u, d, hu, herr, hmatched, hcount, hbytes, hcollide, hd, horder⟩ :=
    exec_decode_arrangement good hcancel harr hash (by omega)
  refine ⟨t, u, ht, hu, herr, hmatched, ?_, fun smallest j _ => ?_⟩
  · rw [hcount, htotal, Nat.mul_div_cancel_left _ (by decide), BitVec.ofNat_toNat, BitVec.setWidth_eq]
  · have hsame : d = t.cand :=
      horder.resolve_right fun hlt => smallest d hlt (hd.2.trans harr.2.symm) hcollide
    rw [hbytes, hsame, hcand, unpackBits_packBytes, hbuf]
    exact bufRead_bufWriteBytes_bufReadBytes 0 _ hwf j

end Sys2Proof.Machine
end

section
/-! PROOFS. Every DECODE ends, and how many turns of the engine it takes at most (44_decoder.md R174;
70_reset_and_hazards.md R231). -/

namespace Sys2Proof.Machine

/-! ### A turn that comes to IDLE ends the command (R197, R198) -/

theorem EngineTurn.ends {s t : State} (turn : EngineTurn s t) (hs : s.st ≠ .idle) (ht : t.st = .idle) :
    t.busy = false ∧ t.done = true := by
  cases turn with
  | idle h => exact absurd h hs
  | encPacked | encCounted | encHashed | decLoaded | decChecked | decSeeded | decHashed | decMatched | decDiffered
  | decAdvanced => cases ht
  | _ => exact ⟨rfl, rfl⟩

theorem engineRun_ends {n : Nat} {s : State} (hs : s.st ≠ .idle) (ht : (engineRun n s).st = .idle) :
    (engineRun n s).busy = false ∧ (engineRun n s).done = true := by
  induction n generalizing s with
  | zero => exact absurd ht hs
  | succ n ih =>
    rcases eq_or_ne (engineMove s).st .idle with hidle | hgoes
    · rw [engineRun, engineRun_idle n hidle]
      exact (engineMove_turn s).ends hs hidle
    · exact ih hgoes ht

theorem exec_ends (i : Instr) {s : State} (idle : s.busy = false) :
    ∃ t, exec i s = .next t ∧ t.busy = false ∧ t.done = true ∧ t.st = .idle := by
  obtain ⟨n, hst, hexec⟩ := commandIsIssueThenEngine i s idle
  have hentry : (performWrite 0x0 (encode i) s).st = entry i := performWrite_cmd_encode_st i idle
  obtain ⟨hbusy, hdone⟩ := engineRun_ends (by rw [hentry]; cases i <;> decide) hst
  refine ⟨_, hexec, ?_⟩
  rw [cancelLands_eq]
  exact ⟨hbusy, hdone, hst⟩

/-! ### The turns left (R174) -/

/-- The number of candidates from `c` on, itself included (R152). -/
def candidatesLeft (c : BitSeq) : Nat := c.length.choose (popcount c) - rank c

theorem candidatesLeft_pos (c : BitSeq) : 1 ≤ candidatesLeft c := Nat.sub_pos_of_lt (rank_lt_choose c)

theorem candidatesLeft_nextSeq {c d : BitSeq} (h : nextSeq c = some d) : candidatesLeft d + 1 = candidatesLeft c := by
  obtain ⟨hlen, hones⟩ := nextKeepsLengthAndCount c d h
  have hlt := rank_lt_choose d
  rw [hlen, hones, rank_nextSeq h] at hlt
  rw [candidatesLeft, candidatesLeft, hlen, hones, rank_nextSeq h]
  omega

theorem candidatesLeft_firstSeq {n k : Nat} (h : k ≤ n) : candidatesLeft (firstSeq n k) = n.choose k := by
  rw [candidatesLeft, rank_firstSeq, firstSeq_length h, popcount_firstSeq, Nat.sub_zero]

/-- A bound on the turns that DECODE still takes: three for each candidate left, one for each state before the first
(R175). -/
def turnsLeft (s : State) : Nat :=
  match s.st with
  | .dLoad => 3 * candidatesLeft (firstSeq s.drec0.toNat s.drec1.toNat) + 3
  | .dCheck => 3 * candidatesLeft (firstSeq s.totalBits.toNat s.setBits.toNat) + 2
  | .dSeed => 3 * candidatesLeft (firstSeq s.totalBits.toNat s.setBits.toNat) + 1
  | .dHash => 3 * candidatesLeft s.cand
  | .dCmp => 3 * candidatesLeft s.cand - 1
  | .dAdv => 3 * candidatesLeft s.cand - 2
  | .dEmit => 1
  | _ => 0

theorem turnsLeft_idle {s : State} (h : s.st = .idle) : turnsLeft s = 0 := by rw [turnsLeft, h]

theorem turnsLeft_pos {s : State} (h : owner s.st = some .decode) : 1 ≤ turnsLeft s := by
  have hpos := candidatesLeft_pos s.cand
  unfold turnsLeft
  cases hs : s.st with
  | dLoad | dCheck | dSeed | dHash | dCmp | dAdv | dEmit => simp only; omega
  | _ => simp [hs, owner] at h

/-- A turn of DECODE leaves one turn fewer. -/
theorem EngineTurn.turnsLeft_lt {s t : State} (turn : EngineTurn s t) (hs : owner s.st = some .decode) :
    turnsLeft t < turnsLeft s := by
  have hcand := candidatesLeft_pos s.cand
  cases turn with
  | idle h | packed h | unpacked h | hashed h | counted h | seeded h | exhausted h | advanced h | loaded h | stored h
  | encPacked h | encCounted h | encHashed h | encStored h => simp [h, owner] at hs
  | failed | decCancelled | decExhausted | decEmitted =>
    rw [turnsLeft_idle rfl]
    exact turnsLeft_pos hs
  | decLoaded h | decChecked h | decSeeded h | decHashed h | decMatched h | decDiffered h =>
    simp only [turnsLeft, h, opSeed_cand, opHash_cand]
    omega
  | decAdvanced h _ hn =>
    have hnext := candidatesLeft_nextSeq hn
    simp only [turnsLeft, h]
    omega

theorem decode_run_ends {k : Nat} {s : State} (hs : owner s.st = some .decode) (hk : turnsLeft s ≤ k) :
    ∃ n, n ≤ k ∧ (engineRun n s).st = .idle := by
  induction k generalizing s with
  | zero => exact absurd (turnsLeft_pos hs) (by omega)
  | succ k ih =>
    have turn := engineMove_turn s
    rcases eq_or_ne (engineMove s).st .idle with hidle | hgoes
    · exact ⟨1, by omega, hidle⟩
    · have hlt := turn.turnsLeft_lt hs
      obtain ⟨n, hn, hend⟩ := ih ((turn.rowFrame hs).running hgoes).2 (by omega)
      exact ⟨n + 1, by omega, hend⟩

/-- Settles O32: the last turn clears BUSY and sets DONE; each turn brings the end nearer, from three turns per
candidate and three before the first. -/
theorem decodeEnds : Obligations.DecodeEnds := by
  intro s idle
  refine ⟨exec_ends .decode idle, fun param _ => ?_⟩
  have issued : performWrite 0x0 (encode .decode) s = _ := performWrite_cmd_encode .decode idle
  rw [issued]
  refine decode_run_ends rfl ?_
  simp only [turnsLeft, entry, candidatesLeft_firstSeq param]
  omega

end Sys2Proof.Machine
end

section
/-! PROOFS. The transitions of ST that the engine makes (45_common_laws.md R242). -/

namespace Sys2Proof.Machine

/-- Only the sequencers of ENCODE and DECODE have a state beside the entry state (R40, R92). -/
theorem eq_entry_of_owner {x : Sequencer} {i : Instr} (hi : owner x = some i) (he : i ≠ .encode) (hd : i ≠ .decode) :
    x = entry i := by
  cases x with
  | idle => cases hi
  | ePack | eCount | eHash | eStore => exact absurd (Option.some.inj hi).symm he
  | dLoad | dCheck | dSeed | dHash | dCmp | dAdv | dEmit => exact absurd (Option.some.inj hi).symm hd
  | _ => cases hi; rfl

/-- The one step of a primitive command comes to IDLE, by `finish` or by `fail` (R93). -/
theorem fsmStep_primitive_ends {s : State} {i : Instr} (hi : owner s.st = some i) (he : i ≠ .encode)
    (hd : i ≠ .decode) : (fsmStep s).st = .idle := by
  rw [← commandBody_primitive he hd (eq_entry_of_owner hi he hd)]
  exact commandBody_ends i s

/-- D_ADV ends the search or goes back to the next hash, the engine's only backward edge (R168). -/
theorem decAdvanceStep_st (s : State) : (decAdvanceStep s).st = .idle ∨ (decAdvanceStep s).st = .dHash := by
  cases hc : s.cancelReq with
  | true => rw [decAdvanceStep_cancelled hc]; exact .inl rfl
  | false =>
    cases hn : nextSeq s.cand with
    | none => rw [decAdvanceStep_exhausted hc hn]; exact .inl rfl
    | some c => rw [decAdvanceStep_next hc hn]; exact .inr rfl

/-- Settles O46: IDLE stays, a primitive command ends, and the other states go where the rows of R137 and R175 say. -/
theorem engineTransitions : Obligations.EngineTransitions := by
  intro s
  rcases eq_or_ne s.st .dAdv with hadv | hother
  · rw [engineMove_advance hadv, hadv]
    rcases decAdvanceStep_st (cancelArrives s) with hst | hst <;> rw [hst] <;> decide
  obtain ⟨hePack, heCount, heHash, heStore⟩ := encodeSequencerTable s
  obtain ⟨hIdle, hdLoad, hdCheck, hdSeed, hdHash, hdCmp, -, hdEmit⟩ := decodeSequencerTable s
  rw [engineMove_other hother]
  cases h : s.st with
  | idle => rw [(hIdle h).1, h]; decide
  | xPack | xUnpack | xHash | xPopcnt | xFirst | xNext | xLddesc | xStdesc =>
    rw [fsmStep_primitive_ends (congrArg owner h) (by decide) (by decide)]
    decide
  | ePack => rw [hePack h]; split_ifs <;> simp
  | eCount => rw [heCount h]; simp
  | eHash => rw [heHash h]; simp
  | eStore => rw [heStore h]; simp
  | dLoad => rw [hdLoad h]; split_ifs <;> simp
  | dCheck => rw [hdCheck h]; split_ifs <;> simp
  | dSeed => rw [hdSeed h]; simp
  | dHash => rw [hdHash h]; simp
  | dCmp => rw [hdCmp h]; split_ifs <;> simp
  | dAdv => exact absurd h hother
  | dEmit => rw [hdEmit h]; split_ifs <;> simp

end Sys2Proof.Machine
end

section
/-! PROOFS. No move stops the machine, and the interrupt line follows the end of a command (60_exceptions.md R195, R197,
R200). -/

namespace Sys2Proof.Machine

/-! ### Every move has a next state (R197, R200) -/

/-- A command is refused by the port or runs to its end, and either leaves a state. -/
theorem exec_next (i : Instr) (s : State) : ∃ t, exec i s = .next t := by
  rw [exec_eq_runCommand]
  exact runCommand_next i _ s

/-- An illegal word written to CMD is an outcome of the write, not a stop (R95). -/
theorem runWord_next (w : Word) (s : State) : ∃ t, runWord w s = .next t := by
  cases hd : decode w with
  | ok i => rw [runWord_decoded s hd]; exact exec_next i s
  | error e => exact ⟨illegalCommand w s, by rw [runWord, hd]⟩

theorem perform_next (m : Move) (s : State) : ∃ t, perform m s = .next t := by
  cases m with
  | command w q => exact runWord_next w (planCancel q s)
  | read | write | engine | reset => exact ⟨_, rfl⟩

/-- Settles O7: a step is one move of the script, or with none left a turn of the engine. -/
theorem everyStepGoesOn : Obligations.EveryStepGoesOn := by
  intro s
  cases hs : s.host with
  | nil => exact ⟨_, step_noScript hs⟩
  | cons m rest =>
    rw [step_script hs]
    exact perform_next m _

/-! ### The interrupt line (R195, R36) -/

theorem irq_of_done {s : State} (h : s.done = true) : irq s = s.ie := by rw [irq, h, Bool.and_true]

theorem irq_of_not_done {s : State} (h : s.done = false) : irq s = false := by rw [irq, h, Bool.and_false]

theorem irq_of_masked {s : State} (h : s.ie = false) : irq s = false := by rw [irq, h, Bool.false_and]

theorem exec_irq (i : Instr) {s : State} (idle : s.busy = false) : ∃ t, exec i s = .next t ∧ irq t = s.ie := by
  obtain ⟨t, ht, -, hdone, -⟩ := exec_ends i idle
  obtain ⟨u, hu, -, hie, -⟩ := commandsWriteOnlyTheirRow i s idle
  obtain rfl : t = u := Host.Outcome.next.inj (ht.symm.trans hu)
  exact ⟨t, ht, (irq_of_done hdone).trans hie⟩

/-- Settles O18: a command ends with DONE and keeps IE, ACK and the issue clear DONE, and the mask clears IE. -/
theorem irqFollowsDone : Obligations.IrqFollowsDone := by
  refine ⟨fun i s => exec_irq i, fun s v ack => ?_, fun s v mask => ?_, fun i s idle => ?_⟩
  · rw [(ctrlWriteAndRead s v).1]
    exact irq_of_not_done (if_pos ack)
  · rw [(ctrlWriteAndRead s v).1]
    exact irq_of_masked mask
  · have issued : performWrite 0x0 (encode i) s = _ := performWrite_cmd_encode i idle
    rw [issued]
    exact irq_of_not_done rfl

end Sys2Proof.Machine
end

section
/-! PROOFS. The hazards: what STATUS shows of a running command, where the engine writes BUF, and which cancel requests
a command sees (70_reset_and_hazards.md R226, R228, R233). -/

namespace Sys2Proof.Machine

/-! ### STATUS while busy (R226) -/

/-- The flags but MATCH are clear while a command runs (R45), so MATCH alone tells its STATUS words apart. -/
theorem statusWord_running {s : State} (inv : Inv s) (running : s.busy = true) :
    statusWord s = if s.matched then 0x09 else 0x01 := by
  obtain ⟨done, exh, err⟩ := inv.busy_clear running
  rw [statusWord, running, done, exh, err]
  cases s.matched <;> rfl

/-- Settles O16: STATUS may be read at any time, and while busy MATCH is set in D_EMIT only. -/
theorem statusWhileBusy : Obligations.StatusWhileBusy := by
  intro s inv running
  have read : hostRead s 0x08 = .okayRead (statusWord s) := hostRead_reg .status rfl fun _ => rfl
  rw [read, statusWord_running inv running, Reply.okayRead]
  simp only [inv.matched_iff running]

/-! ### BUF while the engine runs (R233, R243) -/

/-- A turn of the engine leaves BUF as it was, or it is the output of c from X_UNPACK or D_EMIT (R113). -/
theorem EngineTurn.buf_cases {s t : State} (turn : EngineTurn s t) :
    t.buf = s.buf ∨ (s.st = .xUnpack ∨ s.st = .dEmit) ∧ t.buf = bufWriteBytes s.buf 0 (unpackBits s.cand) := by
  cases turn with
  | unpacked h => exact .inr ⟨.inl h, rfl⟩
  | decEmitted h => exact .inr ⟨.inr h, rfl⟩
  | decCancelled | decExhausted | decAdvanced => exact .inl (by simp [cancelArrives_eq])
  | _ => exact .inl rfl

/-- Settles O37: the output is written from address 0 on and has LEN/8 bytes. -/
theorem engineWritesBufOnlyOnOutput : Obligations.EngineWritesBufOnlyOnOutput := by
  intro s a changed
  rcases (engineMove_turn s).buf_cases with kept | ⟨output, written⟩
  · exact absurd (by rw [kept]) changed
  · refine ⟨output, ?_⟩
    by_contra above
    refine changed ?_
    rw [written, bufRead_bufWriteBytes_outside (.inr (by rw [unpackBits_length]; omega))]

/-! ### Cancel requests (R228) -/

/-- Issue clears CANCEL_REQ, so no command sees what it was (R91). -/
theorem exec_cancelReq (i : Instr) {s : State} (b : Bool) (idle : s.busy = false) :
    exec i { s with cancelReq := b } = exec i s := by
  have issued : performWrite cmdOffset (encode i) { s with cancelReq := b } = performWrite cmdOffset (encode i) s :=
    (performWrite_cmd_encode i (s := { s with cancelReq := b }) idle).trans (performWrite_cmd_encode i idle).symm
  rw [exec_idle_body i idle, exec_idle_body i (s := { s with cancelReq := b }) idle, issued]

/-- A command on which a planned cancel write has no other effect than CANCEL_REQ, read off its whole result. -/
theorem exec_planned {i : Instr} {result : State → State}
    (whole : ∀ s : State, s.busy = false → exec i s = .next (result s))
    (planned : ∀ (s : State) (q : Option Nat),
      result { s with cancelAt := q } = { result { s with cancelAt := none } with cancelReq := q.isSome })
    {s : State} (q : Option Nat) (idle : s.busy = false) :
    ∃ t, exec i { s with cancelAt := none } = .next t ∧
      exec i { s with cancelAt := q } = .next { t with cancelReq := q.isSome } :=
  ⟨_, whole _ idle, (whole { s with cancelAt := q } idle).trans (congrArg Host.Outcome.next (planned s q))⟩

/-- Settles O39: issue clears CANCEL_REQ, and the result of a command other than DECODE shows the plan in CANCEL_REQ
alone, in each of its cases. -/
theorem cancelReachesOnlyDecode : Obligations.CancelReachesOnlyDecode := by
  refine ⟨fun i s b => exec_cancelReq i b, fun i s q hd idle => ?_⟩
  cases i with
  | decode => exact absurd rfl hd
  | hash => exact exec_planned hashResult (fun _ _ => rfl) q idle
  | popcnt => exact exec_planned popcntResult (fun _ _ => rfl) q idle
  | stdesc => exact exec_planned stdescResult (fun _ _ => rfl) q idle
  | pack => exact exec_planned packResult (fun s q => by dsimp only; split_ifs <;> rfl) q idle
  | unpack => exact exec_planned unpackResult (fun s q => by dsimp only; split_ifs <;> rfl) q idle
  | first => exact exec_planned firstResult (fun s q => by dsimp only; split_ifs <;> rfl) q idle
  | lddesc => exact exec_planned lddescResult (fun s q => by dsimp only; split_ifs <;> rfl) q idle
  | encode => exact exec_planned encodeResult (fun s q => by dsimp only; split_ifs <;> rfl) q idle
  | next => exact exec_planned nextResult (fun s q => by dsimp only; cases nextSeq s.cand <;> rfl) q idle

end Sys2Proof.Machine
end
